-- ==== Sys2Proof/Word.lean ====
section
/-! DEFINITION. The word types of the block. -/

namespace Sys2Proof

/-- One byte of IN or OUT (R70, R73), a channel of a triplet (R108). -/
abbrev Byte := BitVec 8

/-- One 32-bit word of the REG space (R31). -/
abbrev Word := BitVec 32

/-- One Host Access Word (R111). -/
abbrev Haw := BitVec 64

end Sys2Proof
end

