-- ==== Sys2Proof/Config.lean ====
section
/-! DEFINITION. The constants of R9, the two parameters a model may vary (R11), the check that a configuration is well
formed (R12), and the free values. -/

namespace Sys2Proof

namespace Config

/-! ### The constants of R9 -/

def snapshotLen : Nat := 49179
def stateOff : Nat := 0
def stateLen : Nat := 27
def bitmapOff : Nat := 27
def bitmapLen : Nat := 6144
def attrOff : Nat := 6171
def attrLen : Nat := 768
def usedEnd : Nat := 6939
def width : Nat := 256
def height : Nat := 192
def cell : Nat := 8
def cols : Nat := 32
def rows : Nat := 24
def bytesPerScanline : Nat := 32
def scanlines : Nat := 192
def bpp : Nat := 3
def outRowBytes : Nat := 768
def outLen : Nat := 147456
def full : Byte := 255

/-- Length in bytes of the REG space (R74). -/
def regLen : Nat := 0x20

/-- SNAPSHOT_LEN as the 32-bit value the size check compares (R171) and ERR_EXPECTED holds (R35). -/
def snapshotLenWord : Word := 0x0000C01B

/-! ### Free values: constants with no body, so nothing can evaluate them -/

/-- The free draw that IN byte `offset` holds after the RESET with number `resets` (R310, R48). Log 5. -/
opaque freeInByte (resets offset : Nat) : Byte

/-- The free draw that OUT byte `offset` holds after the RESET with number `resets` (R310, R48). Log 5. -/
opaque freeOutByte (resets offset : Nat) : Byte

/-- The free draw that a host read of OUT returns while BUSY = 1 (R153), numbered by the reads that drew. Log 9. -/
opaque freeBusyByte (draw : Nat) : Byte

end Config

/-- The parameters of R11 that a model may vary: IN_CAP (D7) and DIM_LEVEL (D19). The defaults are R11's. -/
structure Params where
  /-- IN_CAP, the number of bytes in the IN window. -/
  inCap : Nat := 49179
  /-- DIM_LEVEL, the dimmed value of a full-intensity channel. -/
  dimLevel : Byte := 223
  deriving DecidableEq, Repr

namespace Params

/-- The default configuration of R11. -/
def default : Params := {}

/-- R12's six conditions, of which only the last can fail, and DIM_LEVEL one of its two documented values (R11). -/
def wellFormed (p : Params) : Bool :=
  decide (Config.stateOff + Config.stateLen ≤ Config.bitmapOff)
    && decide (Config.bitmapOff + Config.bitmapLen ≤ Config.attrOff)
    && decide (Config.attrOff + Config.attrLen ≤ Config.snapshotLen)
    && decide (Config.bitmapLen = Config.height * Config.bytesPerScanline)
    && decide (Config.attrLen = Config.rows * Config.cols)
    && decide (Config.snapshotLen ≤ p.inCap)
    && (p.dimLevel == 223 || p.dimLevel == 221)

end Params

end Sys2Proof
end

