-- ==== Sys2Proof/Syntax.lean ====
section
/-! DEFINITION. The operations of spec/opcode_table.json, one constructor a row, and the codes that select them (R111).

A HAW constructor carries the DATA bits its rule ignores, so that no bit of a word is dropped and every statement about it
holds for every value of the ignored bits. -/

namespace Sys2Proof

/-- The engine's control state (R39). Its encoding is not observable. -/
inductive Phase where
  | idle
  | check
  | scan
  deriving DecidableEq, Repr

/-- A pixel triplet (R108). -/
structure Rgb where
  r : Byte
  g : Byte
  b : Byte
  deriving DecidableEq, Repr

/-- The twelve datapath operations of R111's second table. -/
inductive Stage where
  | attrFetch
  | attrSplit
  | cexp
  | dim
  | clut
  | vrow
  | bmpFetch
  | bitx
  | psel
  | pwrite
  | seqAdv
  | frame
  deriving DecidableEq, Repr

/-- One constructor per row of spec/opcode_table.json. -/
inductive Instr where
  /-- HW_START (R140): DATA[0] = 1, `hi` is DATA[31:1], ignored. -/
  | hwStart (hi : BitVec 31)
  /-- HW_CTRL0 (R141): DATA[0] = 0, `hi` is DATA[31:1], ignored. -/
  | hwCtrl0 (hi : BitVec 31)
  /-- HR_CTRL (R142). -/
  | hrCtrl (data : Word)
  /-- HR_STATUS (R143). -/
  | hrStatus (data : Word)
  /-- HW_IN_LEN (R144). -/
  | hwInLen (data : Word)
  /-- HR_IN_LEN (R145). -/
  | hrInLen (data : Word)
  /-- HR_ERR_EXPECTED (R146). -/
  | hrErrExpected (data : Word)
  /-- HR_ERR_ACTUAL (R147). -/
  | hrErrActual (data : Word)
  /-- HW_STATUS (R148). -/
  | hwStatus (data : Word)
  /-- HW_ERR_EXPECTED (R148). -/
  | hwErrExpected (data : Word)
  /-- HW_ERR_ACTUAL (R148). -/
  | hwErrActual (data : Word)
  /-- HR_RSVD at 0x14 (R149). -/
  | hrRsvd14 (data : Word)
  /-- HR_RSVD at 0x18 (R149). -/
  | hrRsvd18 (data : Word)
  /-- HR_RSVD at 0x1C (R149). -/
  | hrRsvd1C (data : Word)
  /-- HW_RSVD at 0x14 (R150). -/
  | hwRsvd14 (data : Word)
  /-- HW_RSVD at 0x18 (R150). -/
  | hwRsvd18 (data : Word)
  /-- HW_RSVD at 0x1C (R150). -/
  | hwRsvd1C (data : Word)
  /-- HW_IN (R151): the byte is DATA[7:0]. -/
  | hwIn (off : BitVec 29) (data : Word)
  /-- HR_IN (R152). -/
  | hrIn (off : BitVec 29) (data : Word)
  /-- HR_OUT (R153). -/
  | hrOut (off : BitVec 29) (data : Word)
  /-- HW_OUT (R154). -/
  | hwOut (off : BitVec 29) (data : Word)
  /-- E_SIZECHK (R171): the operand is LEN_LATCH. -/
  | eSizechk
  /-- E_PIXEL (R175): the operand is SEQ. -/
  | ePixel
  /-- RESET (R310). -/
  | reset
  /-- ATTR_FETCH (R190). -/
  | attrFetch (cellRow cellCol : BitVec 5)
  /-- ATTR_SPLIT (R191). -/
  | attrSplit (attr : Byte)
  /-- CEXP (R192). -/
  | cexp (idx : BitVec 3)
  /-- DIM (R193). -/
  | dim (bright : Bool) (channel : Byte)
  /-- CLUT (R194). -/
  | clut (bright : Bool) (idx : BitVec 3)
  /-- VROW (R220). -/
  | vrow (y : Byte)
  /-- BMP_FETCH (R222). -/
  | bmpFetch (physicalRow : Byte) (cellCol : BitVec 5)
  /-- BITX (R223). -/
  | bitx (dbyte : Byte) (bitIdx : BitVec 3)
  /-- PSEL (R250). -/
  | psel (p : Bool) (ink paper : Rgb)
  /-- PWRITE (R251). -/
  | pwrite (y x : Byte) (rgb : Rgb)
  /-- SEQ_ADV (R173). -/
  | seqAdv (cellRow cellCol : BitVec 5) (pixY bitIdx : BitVec 3)
  /-- FRAME (R252): the operand is the IN region [27, 6939). -/
  | frame
  deriving DecidableEq, Repr

/-- What selects an operation (R111): a host access, the engine step that PHASE selects, the reset input, or a datapath
operation by its name with its operand word. -/
inductive Code where
  /-- A host access: its width in bytes (R77, log 16) and its Host Access Word. -/
  | host (bytes : Nat) (haw : Haw)
  /-- An engine step, selected by PHASE (R170). -/
  | engine (phase : Phase)
  /-- The reset input asserted. -/
  | reset
  /-- A datapath operation, its operands in the low bits of `word`. No step has such a code (R13, log 3). -/
  | stage (op : Stage) (word : BitVec 64)
  deriving DecidableEq, Repr

/-- Why a code selects no operation. -/
inductive Reject where
  /-- S = 11 selects no space (R113). -/
  | spaceNone
  /-- A REG offset that is no multiple of 4 (R113). -/
  | regMisaligned
  /-- A REG offset of 0x20 or more (R113). -/
  | regOffset
  /-- An IN offset of IN_CAP or more (R113). -/
  | inOffset
  /-- An OUT offset of 147456 or more (R113). -/
  | outOffset
  /-- An access width other than R77's (R113). -/
  | accessWidth
  /-- An engine step while PHASE = IDLE: it does not exist (R170). -/
  | engineIdle
  /-- An operand word with bits above the operation's operand format (R111). -/
  | stageBits
  /-- An operand outside the range that the operation's rule gives it (R173, R190, R222, R251). -/
  | stageOperand
  deriving DecidableEq, Repr

end Sys2Proof
end

