-- ==== Sys2Proof/WellFormed.lean ====
section
/-! DEFINITION. Which operations are well formed: every operand in the range its rule gives it. -/

namespace Sys2Proof

/-- The operand ranges of R151 to R154 (R113), R190, R222, R251 and R173. Every other operand may take every value (R112). -/
def Instr.wellFormed (p : Params) : Instr → Bool
  | .hwIn off _ | .hrIn off _ => decide (off.toNat < p.inCap)
  | .hrOut off _ | .hwOut off _ => decide (off.toNat < Config.outLen)
  | .attrFetch cr _ => decide (cr.toNat < Config.rows)
  | .bmpFetch pr _ => decide (pr.toNat < Config.scanlines)
  | .pwrite y _ _ => decide (y.toNat < Config.height)
  | .seqAdv cr cc py k => decide (cr.toNat < Config.rows) && !(cr == 23 && cc == 31 && py == 7 && k == 7)
  | .hwStart _ | .hwCtrl0 _ | .hrCtrl _ | .hrStatus _ | .hwInLen _ | .hrInLen _ | .hrErrExpected _ | .hrErrActual _
  | .hwStatus _ | .hwErrExpected _ | .hwErrActual _ | .hrRsvd14 _ | .hrRsvd18 _ | .hrRsvd1C _ | .hwRsvd14 _ | .hwRsvd18 _
  | .hwRsvd1C _ | .eSizechk | .ePixel | .reset | .attrSplit _ | .cexp _ | .dim _ _ | .clut _ _ | .vrow _ | .bitx _ _
  | .psel _ _ _ | .frame => true

end Sys2Proof
end

