-- ==== Sys2Proof/Decode.lean ====
section
/-! DEFINITION. The decoder, total on every code, rejecting by name, and the encoder (R111, R113, R77).

The Host Access Word's fields are R111's: W = bit 63, S = bits 62:61, OFF = bits 60:32, DATA = bits 31:0. -/

namespace Sys2Proof

/-! ### The fields of a Host Access Word -/

/-- W, bit 63. -/
def hawW (w : Haw) : Bool := w.getLsbD 63

/-- S, bits 62:61. -/
def hawS (w : Haw) : BitVec 2 := w.extractLsb' 61 2

/-- OFF, bits 60:32. -/
def hawOff (w : Haw) : BitVec 29 := w.extractLsb' 32 29

/-- DATA, bits 31:0. -/
def hawData (w : Haw) : Word := w.extractLsb' 0 32

/-- DATA[31:1]. -/
def dataHi (d : Word) : BitVec 31 := d.extractLsb' 1 31

/-- DATA[7:0], the byte of an IN write (R111, R151). -/
def dataByte (d : Word) : Byte := d.extractLsb' 0 8

/-- The word with fields W, S, OFF and DATA. -/
def haw (w : Bool) (s : BitVec 2) (off : BitVec 29) (data : Word) : Haw :=
  (BitVec.ofBool w ++ s ++ off ++ data).cast (by decide)

/-- The width in bytes of the one access that R77 allows on the space S selects: 4 on REG, 1 on IN and OUT. -/
def accessBytes (s : BitVec 2) : Nat := if s = 0 then 4 else 1

/-! ### Host accesses -/

/-- The REG rows of R111, by W and the aligned offset below 0x20. -/
def decodeReg (w : Bool) (off : Nat) (d : Word) : Except Reject Instr :=
  if off % 4 ≠ 0 then .error .regMisaligned
  else
    match w, off / 4 with
    | true, 0 => .ok (if d.getLsbD 0 then .hwStart (dataHi d) else .hwCtrl0 (dataHi d))
    | false, 0 => .ok (.hrCtrl d)
    | true, 1 => .ok (.hwStatus d)
    | false, 1 => .ok (.hrStatus d)
    | true, 2 => .ok (.hwInLen d)
    | false, 2 => .ok (.hrInLen d)
    | true, 3 => .ok (.hwErrExpected d)
    | false, 3 => .ok (.hrErrExpected d)
    | true, 4 => .ok (.hwErrActual d)
    | false, 4 => .ok (.hrErrActual d)
    | true, 5 => .ok (.hwRsvd14 d)
    | false, 5 => .ok (.hrRsvd14 d)
    | true, 6 => .ok (.hwRsvd18 d)
    | false, 6 => .ok (.hrRsvd18 d)
    | true, 7 => .ok (.hwRsvd1C d)
    | false, 7 => .ok (.hrRsvd1C d)
    | _, _ => .error .regOffset

/-- The IN rows of R111. -/
def decodeIn (p : Params) (w : Bool) (off : BitVec 29) (d : Word) : Except Reject Instr :=
  if off.toNat < p.inCap then .ok (if w then .hwIn off d else .hrIn off d) else .error .inOffset

/-- The OUT rows of R111. -/
def decodeOut (w : Bool) (off : BitVec 29) (d : Word) : Except Reject Instr :=
  if off.toNat < Config.outLen then .ok (if w then .hwOut off d else .hrOut off d) else .error .outOffset

/-- A host access of `bytes` bytes with word `w`; every access outside R111's table is rejected (R113). -/
def decodeHost (p : Params) (bytes : Nat) (w : Haw) : Except Reject Instr :=
  if hawS w = 3 then .error .spaceNone
  else if bytes ≠ accessBytes (hawS w) then .error .accessWidth
  else if hawS w = 0 then decodeReg (hawW w) (hawOff w).toNat (hawData w)
  else if hawS w = 1 then decodeIn p (hawW w) (hawOff w) (hawData w)
  else decodeOut (hawW w) (hawOff w) (hawData w)

/-! ### Datapath operand words -/

/-- How many bits the operand word of a datapath operation has: its row's "encoding" in spec/opcode_table.json, and for PWRITE
the triplet above its pixel index (log 14). -/
def Stage.bits : Stage → Nat
  | .attrFetch => 10
  | .attrSplit => 8
  | .cexp => 3
  | .dim => 9
  | .clut => 4
  | .vrow => 8
  | .bmpFetch => 13
  | .bitx => 11
  | .psel => 49
  | .pwrite => 40
  | .seqAdv => 16
  | .frame => 0

/-- A triplet as 24 bits, red highest (log 14). -/
def rgbWord (c : Rgb) : BitVec 24 := (c.r ++ c.g ++ c.b).cast (by decide)

/-- The triplet in the 24 bits of `w` from bit `lo` up. -/
def rgbAt (w : BitVec 64) (lo : Nat) : Rgb :=
  { r := w.extractLsb' (lo + 16) 8, g := w.extractLsb' (lo + 8) 8, b := w.extractLsb' lo 8 }

/-- The operation with operand word `w`, before its bits and ranges are checked: each operand in the bits that its row's
"encoding" and "source_fields" in spec/opcode_table.json give it. -/
def stageInstr (op : Stage) (w : BitVec 64) : Instr :=
  match op with
  | .attrFetch => .attrFetch (w.extractLsb' 5 5) (w.extractLsb' 0 5)
  | .attrSplit => .attrSplit (w.extractLsb' 0 8)
  | .cexp => .cexp (w.extractLsb' 0 3)
  | .dim => .dim (w.getLsbD 8) (w.extractLsb' 0 8)
  | .clut => .clut (w.getLsbD 3) (w.extractLsb' 0 3)
  | .vrow => .vrow (w.extractLsb' 0 8)
  | .bmpFetch => .bmpFetch (w.extractLsb' 5 8) (w.extractLsb' 0 5)
  | .bitx => .bitx (w.extractLsb' 3 8) (w.extractLsb' 0 3)
  | .psel => .psel (w.getLsbD 48) (rgbAt w 24) (rgbAt w 0)
  | .pwrite => .pwrite (w.extractLsb' 8 8) (w.extractLsb' 0 8) (rgbAt w 16)
  | .seqAdv => .seqAdv (w.extractLsb' 11 5) (w.extractLsb' 6 5) (w.extractLsb' 3 3) (w.extractLsb' 0 3)
  | .frame => .frame

/-- A datapath operation with its operand word: no bit above the format, every operand in its range. -/
def decodeStage (p : Params) (op : Stage) (w : BitVec 64) : Except Reject Instr :=
  if 2 ^ op.bits ≤ w.toNat then .error .stageBits
  else if (stageInstr op w).wellFormed p then .ok (stageInstr op w)
  else .error .stageOperand

/-! ### The decoder -/

/-- The operation a code selects (R111), or why it selects none. -/
def decode (p : Params) : Code → Except Reject Instr
  | .host bytes w => decodeHost p bytes w
  | .engine .idle => .error .engineIdle
  | .engine .check => .ok .eSizechk
  | .engine .scan => .ok .ePixel
  | .reset => .ok .reset
  | .stage op w => decodeStage p op w

/-! ### The encoder -/

/-- A REG access at offset `off`. -/
def regCode (w : Bool) (off : BitVec 29) (d : Word) : Code := .host 4 (haw w 0 off d)

/-- The code of an operation, from R111's two tables. -/
def encode : Instr → Code
  | .hwStart hi => regCode true 0x00 ((hi ++ 1#1).cast (by decide))
  | .hwCtrl0 hi => regCode true 0x00 ((hi ++ 0#1).cast (by decide))
  | .hrCtrl d => regCode false 0x00 d
  | .hrStatus d => regCode false 0x04 d
  | .hwInLen d => regCode true 0x08 d
  | .hrInLen d => regCode false 0x08 d
  | .hrErrExpected d => regCode false 0x0C d
  | .hrErrActual d => regCode false 0x10 d
  | .hwStatus d => regCode true 0x04 d
  | .hwErrExpected d => regCode true 0x0C d
  | .hwErrActual d => regCode true 0x10 d
  | .hrRsvd14 d => regCode false 0x14 d
  | .hrRsvd18 d => regCode false 0x18 d
  | .hrRsvd1C d => regCode false 0x1C d
  | .hwRsvd14 d => regCode true 0x14 d
  | .hwRsvd18 d => regCode true 0x18 d
  | .hwRsvd1C d => regCode true 0x1C d
  | .hwIn off d => .host 1 (haw true 1 off d)
  | .hrIn off d => .host 1 (haw false 1 off d)
  | .hrOut off d => .host 1 (haw false 2 off d)
  | .hwOut off d => .host 1 (haw true 2 off d)
  | .eSizechk => .engine .check
  | .ePixel => .engine .scan
  | .reset => .reset
  | .attrFetch cr cc => .stage .attrFetch ((cr ++ cc).setWidth 64)
  | .attrSplit a => .stage .attrSplit (a.setWidth 64)
  | .cexp idx => .stage .cexp (idx.setWidth 64)
  | .dim h c => .stage .dim ((BitVec.ofBool h ++ c).setWidth 64)
  | .clut h idx => .stage .clut ((BitVec.ofBool h ++ idx).setWidth 64)
  | .vrow y => .stage .vrow (y.setWidth 64)
  | .bmpFetch pr cc => .stage .bmpFetch ((pr ++ cc).setWidth 64)
  | .bitx d k => .stage .bitx ((d ++ k).setWidth 64)
  | .psel q ink paper => .stage .psel ((BitVec.ofBool q ++ rgbWord ink ++ rgbWord paper).setWidth 64)
  | .pwrite y x c => .stage .pwrite ((rgbWord c ++ y ++ x).setWidth 64)
  | .seqAdv cr cc py k => .stage .seqAdv ((cr ++ cc ++ py ++ k).setWidth 64)
  | .frame => .stage .frame 0

/-! ### Words as spec/opcode_table.json numbers them -/

/-- The code that a word of `nbits` bits stands for. The HAW rows have 64 bits. Of the other formats the table gives no
selecting bits: a word stands for a row where its width, exact or in whole bytes, is that row's alone; 16 bits are taken as
E_PIXEL's SEQ (cellRow below 24), and RESET is the word 1 (log 15). -/
def tableCode (nbits w : Nat) : Option Code :=
  match nbits with
  | 64 => some (.host (accessBytes (hawS (BitVec.ofNat 64 w))) (BitVec.ofNat 64 w))
  | 32 => some (.engine .check)
  | 16 => if w / 2048 % 32 < Config.rows then some (.engine .scan) else none
  | 8 => if w = 1 then some .reset else none
  | 1 => if w = 1 then some .reset else none
  | 3 => some (.stage .cexp (BitVec.ofNat 64 w))
  | 4 => some (.stage .clut (BitVec.ofNat 64 w))
  | 9 => some (.stage .dim (BitVec.ofNat 64 w))
  | 10 => some (.stage .attrFetch (BitVec.ofNat 64 w))
  | 11 => some (.stage .bitx (BitVec.ofNat 64 w))
  | 13 => some (.stage .bmpFetch (BitVec.ofNat 64 w))
  | 40 => some (.stage .pwrite (BitVec.ofNat 64 w))
  | 49 => some (.stage .psel (BitVec.ofNat 64 w))
  | 56 => some (.stage .psel (BitVec.ofNat 64 w))
  | 55296 => some (.stage .frame 0)
  | _ => none

/-- The operation the decoder reads from a table word, in the default configuration. -/
def decodeTableWord (nbits w : Nat) : Option Instr :=
  (tableCode nbits w).bind fun c =>
    match decode Params.default c with
    | .ok i => some i
    | .error _ => none

end Sys2Proof
end

