-- ==== Sys2Proof/Machine/State.lean ====
section
/-! DEFINITION. The state of one SPD-48K instance (R30), as plain data, and the state after reset (R48). -/

namespace Sys2Proof.Machine

/-- The bytes of a space written since the last reset, offsets strictly rising (log 5). -/
abbrev Memory := List Host.Cell

/-- The scan position (R41), held by the ranges R41 gives its fields (log 6). -/
structure Seq where
  cellRow : Fin 24
  cellCol : Fin 32
  pixY : Fin 8
  bitIdx : Fin 8
  deriving DecidableEq, Repr

/-- STATUS.CAUSE: codes 0 and 1 of R110, the others never produced (R114, log 18). -/
inductive Cause where
  | none
  | sizeMismatch
  deriving DecidableEq, Repr

/-- What comes next in the total order of transitions (R81): a host access, an engine step or a reset, and
nothing else (R13). -/
inductive Event where
  | host (bytes : Nat) (haw : Haw)
  | engine
  | reset
  deriving DecidableEq, Repr

/-- The fields of an attribute byte (R100). -/
structure AttrFields where
  ink : BitVec 3
  paper : BitVec 3
  bright : Bool
  flash : Bool
  deriving DecidableEq, Repr

/-- What a transition returned: a host read returns a word to the host (R155), a datapath operation returns its value. -/
inductive Result where
  | nothing
  | toHost (v : Word)
  | byte (v : Byte)
  | fields (f : AttrFields)
  | rgb (c : Rgb)
  | bit (p : Bool)
  | position (q : Seq)
  | frame (bytes : List Byte)
  deriving DecidableEq, Repr

/-- The state of R30, the configuration parameters, and the model's own fields. -/
structure State where
  /-- Configuration (R11), not state: no transition writes it. -/
  params : Params
  /-- IN (R44). -/
  inMem : Memory
  /-- OUT (R45). -/
  outMem : Memory
  /-- STATUS.DONE (R33). -/
  done : Bool
  /-- STATUS.ERR (R33). -/
  err : Bool
  /-- STATUS.CAUSE (R33). -/
  cause : Cause
  /-- IN_LEN (R34). -/
  inLen : Word
  /-- ERR_ACTUAL (R36). -/
  errActual : Word
  /-- PHASE (R39). STATUS.BUSY is (PHASE is not IDLE). -/
  phase : Phase
  /-- LEN_LATCH (R40). -/
  lenLatch : Word
  /-- SEQ (R41). -/
  seq : Seq
  /-- The model's own: the transitions to come, in order (log 1). -/
  schedule : List Event
  /-- The model's own: what the last transition that returned a value returned. No transition reads it (log 8). -/
  result : Result
  /-- The model's own: how many free values OUT reads have drawn (log 9). -/
  draws : Nat
  /-- The model's own: how many RESET transitions there were, naming the free contents of IN and OUT (log 5). -/
  resets : Nat
  deriving DecidableEq, Repr

/-- Why the machine faults: it never does, since the block has no fault beside SizeMismatch (R280), which is a next state
(R282). Safe: no claim can rest on a fault (log 10). -/
inductive Fault where
  deriving DecidableEq, Repr

/-- Why a transition does not exist in the model (R17). -/
inductive Refusal where
  /-- Raised by `exec` for an operation that has no meaning yet; no arm does. Safe. -/
  | notModelled (mnemonic : String)
  /-- Raised by `step` for a code that selects no operation, and by the meaning of an ill-formed operation (R113, R170).
  Safe: no claim holds of a host that makes such an access. -/
  | illegal (why : Reject)
  /-- Raised by the engine operations in a PHASE that does not select them (R170): they have no step there. Safe. -/
  | notThisPhase
  /-- Raised by `step` with PHASE = IDLE and nothing scheduled: the engine has no idle step (R170, R312). Safe. -/
  | noTransition
  /-- Raised by `step` in a configuration that R12 calls ill formed. Safe. -/
  | illFormedParams
  deriving DecidableEq, Repr

/-- SEQ = (0, 0, 0, 0) (R48, R140). -/
def Seq.first : Seq := { cellRow := 0, cellCol := 0, pixY := 0, bitIdx := 0 }

/-- The state after reset (R48), in the default configuration, with nothing scheduled (log 1). -/
def State.reset : State where
  params := Params.default
  inMem := []
  outMem := []
  done := false
  err := false
  cause := .none
  inLen := 0
  errActual := 0
  phase := .idle
  lenLatch := 0
  seq := Seq.first
  schedule := []
  result := .nothing
  draws := 0
  resets := 0

end Sys2Proof.Machine
end

