-- ==== Sys2Proof/Machine/Flags.lean ====
section
/-! DEFINITION. The flags: STATUS and its fields (R33, R42), and the transitions of them that rules share. -/

namespace Sys2Proof.Machine

/-- STATUS.BUSY, hardwired to (PHASE is not IDLE) (R33). -/
def busy (s : State) : Bool := s.phase != .idle

/-- The 4-bit code of CAUSE (R110). -/
def causeCode : Cause → BitVec 4
  | .none => 0
  | .sizeMismatch => 1

/-- STATUS as a read returns it: zext_32(CAUSE ++ 0b0 ++ ERR ++ DONE ++ BUSY) (R143, R109). -/
def statusWord (s : State) : Word :=
  (causeCode s.cause ++ 0#1 ++ BitVec.ofBool s.err ++ BitVec.ofBool s.done ++ BitVec.ofBool (busy s)).setWidth 32

/-- A taken START (R140): the result flags and ERR_ACTUAL cleared, IN_LEN latched, the scan at its first position, PHASE at
CHECK. -/
def startDecode (s : State) : State :=
  { s with done := false, err := false, cause := .none, errActual := 0, lenLatch := s.inLen, seq := Seq.first, phase := .check }

/-- The end of a scan (R174): PHASE at IDLE and DONE set. -/
def finishScan (s : State) : State := { s with phase := .idle, done := true }

end Sys2Proof.Machine
end

