-- ==== Sys2Proof/Machine/Ops.lean ====
section
/-! DEFINITION. The shared operations over memory and registers: reads and writes of IN and OUT, the values returned, error
entry (R282), the reset input (R310), and how the next transition is chosen. -/

namespace Sys2Proof.Machine

/-! ### Memory -/

/-- The byte written at an offset, if any was since the last reset. -/
def Memory.get? : Memory → Nat → Option Byte
  | [], _ => none
  | (b, w) :: m, a => if a = b then some w else Memory.get? m a

/-- Write one byte, keeping the offsets strictly rising. -/
def Memory.write : Memory → Nat → Byte → Memory
  | [], a, v => [(a, v)]
  | (b, w) :: m, a, v =>
    if a < b then (a, v) :: (b, w) :: m
    else if a = b then (a, v) :: m
    else (b, w) :: Memory.write m a v

/-- Offsets at or above `lo`, strictly rising, below `cap`. -/
def Memory.wfFrom (cap : Nat) : Nat → Memory → Bool
  | _, [] => true
  | lo, (b, _) :: m => decide (lo ≤ b) && decide (b < cap) && Memory.wfFrom cap (b + 1) m

/-- The canonical form of a space of `cap` bytes. -/
def Memory.wf (cap : Nat) (m : Memory) : Bool := Memory.wfFrom cap 0 m

/-- What an IN byte that nothing has written since the last reset reads as: the free draw of R310 (log 5). -/
def unlistedIn (s : State) (off : Nat) : Byte := Config.freeInByte s.resets off

/-- What an OUT byte that nothing has written since the last reset reads as: the free draw of R310 (log 5). -/
def unlistedOut (s : State) (off : Nat) : Byte := Config.freeOutByte s.resets off

/-- MemRead(IN, off, 1) (R16). -/
def readIn (s : State) (off : Nat) : Byte := (s.inMem.get? off).getD (unlistedIn s off)

/-- MemRead(OUT, off, 1) (R16). -/
def readOut (s : State) (off : Nat) : Byte := (s.outMem.get? off).getD (unlistedOut s off)

/-- MemWrite(IN, off, 1, v) (R16). -/
def writeIn (s : State) (off : Nat) (v : Byte) : State := { s with inMem := s.inMem.write off v }

/-- MemWrite(OUT, off, 1, v) (R16). -/
def writeOut (s : State) (off : Nat) (v : Byte) : State := { s with outMem := s.outMem.write off v }

/-! ### Values returned -/

/-- A transition that changes nothing and returns `r`. -/
def returns (s : State) (r : Result) : Host.Outcome State Fault Refusal := .next { s with result := r }

/-- A host read that returns the word `v` (R155): no read has a side effect (R79). -/
def returnWord (s : State) (v : Word) : Host.Outcome State Fault Refusal := returns s (.toHost v)

/-! ### The error, and the reset input -/

/-- raise SizeMismatch(expected = 49179, actual) (R282). Nothing is saved and no handler runs; expected needs no storage,
since ERR_EXPECTED is hardwired (R35). -/
def raiseSizeMismatch (s : State) (actual : Word) : State :=
  { s with errActual := actual, cause := .sizeMismatch, err := true, phase := .idle }

/-- RESET() (R310): the registers of R48, and fresh free draws for every byte of IN and OUT. The configuration stays (R49),
and so do the transitions still to come, which are not the block's. -/
def resetBlock (s : State) : State :=
  { State.reset with params := s.params, schedule := s.schedule, draws := s.draws, resets := s.resets + 1 }

/-! ### The next transition -/

/-- The code that an event stands for: an engine event runs the step that PHASE selects (R170). -/
def Event.code (phase : Phase) : Event → Code
  | .host bytes w => .host bytes w
  | .engine => .engine phase
  | .reset => .reset

/-- The next transition and the state it starts from: the head of the schedule; with nothing scheduled, the engine's step if
PHASE is not IDLE (R318), else none (R170). -/
def fetch (s : State) : Option (Code × State) :=
  match s.schedule with
  | e :: es => some (e.code s.phase, { s with schedule := es })
  | [] => if busy s then some (.engine s.phase, s) else none

end Sys2Proof.Machine
end

