-- ==== Sys2Proof/Machine/Operands.lean ====
section
/-! DEFINITION. The operand forms of the datapath operations: scan coordinates (R18, R104, R107), and the offsets the engine
forms (R106, R108). -/

namespace Sys2Proof.Machine

/-- The screen row y = cellRow*8 + pixY (R18). -/
def Seq.y (q : Seq) : Nat := q.cellRow.val * 8 + q.pixY.val

/-- The screen column x = cellCol*8 + bitIdx (R18). -/
def Seq.x (q : Seq) : Nat := q.cellCol.val * 8 + q.bitIdx.val

/-- The last scan position (R174). -/
def Seq.last : Seq := { cellRow := 23, cellCol := 31, pixY := 7, bitIdx := 7 }

/-- The number of the pixel step at a scan position, counting from 0 (R172). -/
def Seq.index (q : Seq) : Nat := ((q.cellRow.val * 32 + q.cellCol.val) * 8 + q.pixY.val) * 8 + q.bitIdx.val

/-- The scan position with the four fields of SEQ_ADV's operand (R173), where cellRow is in its range. -/
def Seq.ofFields (cr cc : BitVec 5) (py k : BitVec 3) : Option Seq :=
  if h : cr.toNat < 24 then some { cellRow := ⟨cr.toNat, h⟩, cellCol := cc.toFin, pixY := py.toFin, bitIdx := k.toFin }
  else none

/-- The IN offset of a cell's attribute byte (R190). -/
def attrOffset (cr cc : Nat) : Nat := Config.attrOff + cr * Config.cols + cc

/-- The IN offset of a display byte (R222). -/
def bmpOffset (physicalRow cc : Nat) : Nat := Config.bitmapOff + physicalRow * Config.bytesPerScanline + cc

/-- The OUT offset of a pixel's red byte (R251). -/
def pixelBase (x y : Nat) : Nat := (y * Config.width + x) * Config.bpp

end Sys2Proof.Machine
end

