-- ==== Sys2Proof/Machine/ColorLut.lean ====
section
/-! DEFINITION. The colour-attribute stage (spec/42_color_lut.md): ATTR_FETCH, ATTR_SPLIT, CEXP, DIM, CLUT. -/

namespace Sys2Proof.Machine

/-- ATTR_FETCH (R190). -/
def attrFetch (s : State) (cr cc : Nat) : Byte := readIn s (attrOffset cr cc)

/-- ATTR_SPLIT (R191). -/
def attrSplit (attr : Byte) : AttrFields :=
  { ink := attr.extractLsb' 0 3, paper := attr.extractLsb' 3 3, bright := attr.getLsbD 6, flash := attr.getLsbD 7 }

/-- One channel's mask (R192). -/
def channelMask (bit : Bool) : Byte := if bit then Config.full else 0

/-- CEXP (R192): bit 1 selects red, bit 2 green, bit 0 blue. -/
def cexp (idx : BitVec 3) : Rgb :=
  { r := channelMask (idx.getLsbD 1), g := channelMask (idx.getLsbD 2), b := channelMask (idx.getLsbD 0) }

/-- DIM (R193) at the configured DIM_LEVEL. On channels other than 0 and 255, floor(c*7/8), as R193 says (log 13). -/
def dim (level c : Byte) (bright : Bool) : Byte :=
  if bright then c
  else if c = 0 then 0
  else if c = Config.full then level
  else BitVec.ofNat 8 (c.toNat * 7 / 8)

/-- CLUT (R194). -/
def clut (level : Byte) (idx : BitVec 3) (bright : Bool) : Rgb :=
  { r := dim level (cexp idx).r bright, g := dim level (cexp idx).g bright, b := dim level (cexp idx).b bright }

/-- ATTR_FETCH as an operation of its own (R190): it returns the attribute byte. -/
def execAttrFetch (cr cc : BitVec 5) (s : State) : Host.Outcome State Fault Refusal :=
  if cr.toNat < Config.rows then returns s (.byte (attrFetch s cr.toNat cc.toNat)) else .refused (.illegal .stageOperand)

/-- ATTR_SPLIT as an operation of its own (R191). -/
def execAttrSplit (attr : Byte) (s : State) : Host.Outcome State Fault Refusal := returns s (.fields (attrSplit attr))

/-- CEXP as an operation of its own (R192). -/
def execCexp (idx : BitVec 3) (s : State) : Host.Outcome State Fault Refusal := returns s (.rgb (cexp idx))

/-- DIM as an operation of its own (R193). -/
def execDim (bright : Bool) (channel : Byte) (s : State) : Host.Outcome State Fault Refusal :=
  returns s (.byte (dim s.params.dimLevel channel bright))

/-- CLUT as an operation of its own (R194). -/
def execClut (bright : Bool) (idx : BitVec 3) (s : State) : Host.Outcome State Fault Refusal :=
  returns s (.rgb (clut s.params.dimLevel idx bright))

end Sys2Proof.Machine
end

