-- ==== Sys2Proof/Machine/Unpacker.lean ====
section
/-! DEFINITION. The bitmap unpacker (spec/43_bitmap_unpacker.md): VROW, BMP_FETCH, BITX. -/

namespace Sys2Proof.Machine

/-- VROW (R220), the source's formula. -/
def vrow (y : Byte) : Byte := (y &&& 0b11000000) ||| ((y &&& 0b00000111) <<< 3) ||| ((y &&& 0b00111000) >>> 3)

/-- BMP_FETCH (R222). -/
def bmpFetch (s : State) (physicalRow cc : Nat) : Byte := readIn s (bmpOffset physicalRow cc)

/-- BITX (R223): dbyte[7 - bitIdx]. -/
def bitx (dbyte : Byte) (bitIdx : Nat) : Bool := dbyte.getLsbD (7 - bitIdx)

/-- VROW as an operation of its own (R220); R221 gives it on every 8-bit y. -/
def execVrow (y : Byte) (s : State) : Host.Outcome State Fault Refusal := returns s (.byte (vrow y))

/-- BMP_FETCH as an operation of its own (R222): it returns the display byte. -/
def execBmpFetch (physicalRow : Byte) (cc : BitVec 5) (s : State) : Host.Outcome State Fault Refusal :=
  if physicalRow.toNat < Config.scanlines then returns s (.byte (bmpFetch s physicalRow.toNat cc.toNat))
  else .refused (.illegal .stageOperand)

/-- BITX as an operation of its own (R223). -/
def execBitx (dbyte : Byte) (bitIdx : BitVec 3) (s : State) : Host.Outcome State Fault Refusal :=
  returns s (.bit (bitx dbyte bitIdx.toNat))

end Sys2Proof.Machine
end

