-- ==== Sys2Proof/Machine/Compositor.lean ====
section
/-! DEFINITION. The RGB compositing stage (spec/44_rgb_compositor.md): PSEL, PWRITE, FRAME. -/

namespace Sys2Proof.Machine

/-- PSEL (R250). -/
def psel (p : Bool) (ink paper : Rgb) : Rgb := if p then ink else paper

/-- PWRITE (R251): red, green and blue at the pixel's base offset and the next two (R73). -/
def pwrite (s : State) (x y : Nat) (c : Rgb) : State :=
  writeOut (writeOut (writeOut s (pixelBase x y) c.r) (pixelBase x y + 1) c.g) (pixelBase x y + 2) c.b

/-- The pixel (x, y) of Frame(IN) (R252), in terms of x and y alone. -/
def framePixel (s : State) (x y : Nat) : Rgb :=
  let cc := x >>> 3
  let k := x &&& 7
  let cr := y >>> 3
  let attr := readIn s (6171 + cr * 32 + cc)
  let dbyte := readIn s (27 + (vrow (BitVec.ofNat 8 y)).toNat * 32 + cc)
  if dbyte.getLsbD (7 - k) then clut s.params.dimLevel (attr.extractLsb' 0 3) (attr.getLsbD 6)
  else clut s.params.dimLevel (attr.extractLsb' 3 3) (attr.getLsbD 6)

/-- Channel 0, 1 or 2 of a triplet: red, green, blue (R73). -/
def rgbChannel (c : Rgb) (i : Nat) : Byte := if i = 0 then c.r else if i = 1 then c.g else c.b

/-- The byte of Frame(IN) at an OUT offset (R252). -/
def frameByte (s : State) (off : Nat) : Byte :=
  rgbChannel (framePixel s (off / 3 % 256) (off / 3 / 256)) (off % 3)

/-- Frame(IN) as the 147456 bytes of OUT (R252). -/
def frameBytes (s : State) : List Byte := (List.range Config.outLen).map (frameByte s)

/-- PSEL as an operation of its own (R250). -/
def execPsel (p : Bool) (ink paper : Rgb) (s : State) : Host.Outcome State Fault Refusal := returns s (.rgb (psel p ink paper))

/-- PWRITE as an operation of its own (R251). -/
def execPwrite (y x : Byte) (c : Rgb) (s : State) : Host.Outcome State Fault Refusal :=
  if y.toNat < Config.height then .next (pwrite s x.toNat y.toNat c) else .refused (.illegal .stageOperand)

/-- FRAME as an operation of its own (R252): it returns the whole image of the IN bytes, and writes nothing. -/
def execFrame (s : State) : Host.Outcome State Fault Refusal := returns s (.frame (frameBytes s))

end Sys2Proof.Machine
end

