-- ==== Sys2Proof/Machine/Engine.lean ====
section
/-! DEFINITION. The engine sequencer (spec/41_sequencer.md): SEQ_ADV, E_SIZECHK, E_PIXEL; and RESET (R310). -/

namespace Sys2Proof.Machine

/-- SEQ_ADV (R173). It is not applied to the last position, which ends the scan (R174). -/
def seqAdv (q : Seq) : Seq :=
  if hk : q.bitIdx.val < 7 then { q with bitIdx := ⟨q.bitIdx.val + 1, by omega⟩ }
  else if hp : q.pixY.val < 7 then { q with pixY := ⟨q.pixY.val + 1, by omega⟩, bitIdx := 0 }
  else if hc : q.cellCol.val < 31 then { q with cellCol := ⟨q.cellCol.val + 1, by omega⟩, pixY := 0, bitIdx := 0 }
  else if hr : q.cellRow.val < 23 then
    { cellRow := ⟨q.cellRow.val + 1, by omega⟩, cellCol := 0, pixY := 0, bitIdx := 0 }
  else q

/-- The triplet of the pixel at a scan position: R175's pseudocode from ATTR_FETCH to PSEL. -/
def pixelRgb (s : State) (q : Seq) : Rgb :=
  let attr := attrFetch s q.cellRow.val q.cellCol.val
  let f := attrSplit attr
  let inkRGB := clut s.params.dimLevel f.ink f.bright
  let paperRGB := clut s.params.dimLevel f.paper f.bright
  let physicalRow := vrow (BitVec.ofNat 8 q.y)
  let dbyte := bmpFetch s physicalRow.toNat q.cellCol.val
  psel (bitx dbyte q.bitIdx.val) inkRGB paperRGB

/-- The pixel write of one scan step (R175). -/
def writePixel (s : State) : State := pwrite s s.seq.x s.seq.y (pixelRgb s s.seq)

/-- The end of one scan step (R175): the last position ends the scan (R174), any other advances SEQ (R173). -/
def advanceScan (s : State) : State := if s.seq = Seq.last then finishScan s else { s with seq := seqAdv s.seq }

/-- E_SIZECHK (R171), the engine step with PHASE = CHECK (R170). -/
def execESizechk (s : State) : Host.Outcome State Fault Refusal :=
  match s.phase with
  | .check =>
    if s.lenLatch = Config.snapshotLenWord then .next { s with phase := .scan } else .next (raiseSizeMismatch s s.lenLatch)
  | .idle | .scan => .refused .notThisPhase

/-- E_PIXEL (R175), the engine step with PHASE = SCAN (R170). -/
def execEPixel (s : State) : Host.Outcome State Fault Refusal :=
  match s.phase with
  | .scan => .next (advanceScan (writePixel s))
  | .idle | .check => .refused .notThisPhase

/-- RESET (R310). -/
def execReset (s : State) : Host.Outcome State Fault Refusal := .next (resetBlock s)

/-- SEQ_ADV as an operation of its own (R173): it returns the next position, and is not applied to the last one. -/
def execSeqAdv (cr cc : BitVec 5) (py k : BitVec 3) (s : State) : Host.Outcome State Fault Refusal :=
  match Seq.ofFields cr cc py k with
  | some q => if q = Seq.last then .refused (.illegal .stageOperand) else returns s (.position (seqAdv q))
  | none => .refused (.illegal .stageOperand)

end Sys2Proof.Machine
end

