-- ==== Sys2Proof/Machine/HostRegs.lean ====
section
/-! DEFINITION. The host accesses of the REG space (spec/40_host_interface.md, sections 2 to 6). -/

namespace Sys2Proof.Machine

/-- A transition without effect. -/
def noEffect (s : State) : Host.Outcome State Fault Refusal := .next s

/-- HW_START (R140): ignored while BUSY. -/
def execHwStart (_hi : BitVec 31) (s : State) : Host.Outcome State Fault Refusal :=
  if busy s then noEffect s else .next (startDecode s)

/-- HW_CTRL0 (R141). -/
def execHwCtrl0 (_hi : BitVec 31) (s : State) : Host.Outcome State Fault Refusal := noEffect s

/-- HR_CTRL (R142). -/
def execHrCtrl (_data : Word) (s : State) : Host.Outcome State Fault Refusal := returnWord s 0

/-- HR_STATUS (R143). -/
def execHrStatus (_data : Word) (s : State) : Host.Outcome State Fault Refusal := returnWord s (statusWord s)

/-- HW_IN_LEN (R144): ignored while BUSY. -/
def execHwInLen (data : Word) (s : State) : Host.Outcome State Fault Refusal :=
  if busy s then noEffect s else .next { s with inLen := data }

/-- HR_IN_LEN (R145). -/
def execHrInLen (_data : Word) (s : State) : Host.Outcome State Fault Refusal := returnWord s s.inLen

/-- HR_ERR_EXPECTED (R146): hardwired (R35). -/
def execHrErrExpected (_data : Word) (s : State) : Host.Outcome State Fault Refusal := returnWord s Config.snapshotLenWord

/-- HR_ERR_ACTUAL (R147). -/
def execHrErrActual (_data : Word) (s : State) : Host.Outcome State Fault Refusal := returnWord s s.errActual

/-- HW_STATUS (R148): STATUS is read-only. -/
def execHwStatus (_data : Word) (s : State) : Host.Outcome State Fault Refusal := noEffect s

/-- HW_ERR_EXPECTED (R148): ERR_EXPECTED is read-only. -/
def execHwErrExpected (_data : Word) (s : State) : Host.Outcome State Fault Refusal := noEffect s

/-- HW_ERR_ACTUAL (R148): ERR_ACTUAL is read-only. -/
def execHwErrActual (_data : Word) (s : State) : Host.Outcome State Fault Refusal := noEffect s

/-- HR_RSVD at 0x14 (R149). -/
def execHrRsvd14 (_data : Word) (s : State) : Host.Outcome State Fault Refusal := returnWord s 0

/-- HR_RSVD at 0x18 (R149). -/
def execHrRsvd18 (_data : Word) (s : State) : Host.Outcome State Fault Refusal := returnWord s 0

/-- HR_RSVD at 0x1C (R149). -/
def execHrRsvd1C (_data : Word) (s : State) : Host.Outcome State Fault Refusal := returnWord s 0

/-- HW_RSVD at 0x14 (R150). -/
def execHwRsvd14 (_data : Word) (s : State) : Host.Outcome State Fault Refusal := noEffect s

/-- HW_RSVD at 0x18 (R150). -/
def execHwRsvd18 (_data : Word) (s : State) : Host.Outcome State Fault Refusal := noEffect s

/-- HW_RSVD at 0x1C (R150). -/
def execHwRsvd1C (_data : Word) (s : State) : Host.Outcome State Fault Refusal := noEffect s

end Sys2Proof.Machine
end

