-- ==== Sys2Proof/Machine/HostWindows.lean ====
section
/-! DEFINITION. The host accesses of the IN and OUT windows (spec/40_host_interface.md, sections 7 and 8). -/

namespace Sys2Proof.Machine

/-- HW_IN (R151): ignored while BUSY; refused at an offset of IN_CAP or more (R113). -/
def execHwIn (off : BitVec 29) (data : Word) (s : State) : Host.Outcome State Fault Refusal :=
  if off.toNat < s.params.inCap then
    if busy s then noEffect s else .next (writeIn s off.toNat (dataByte data))
  else .refused (.illegal .inOffset)

/-- HR_IN (R152), allowed while BUSY; refused at an offset of IN_CAP or more (R113). -/
def execHrIn (off : BitVec 29) (_data : Word) (s : State) : Host.Outcome State Fault Refusal :=
  if off.toNat < s.params.inCap then returnWord s ((readIn s off.toNat).setWidth 32) else .refused (.illegal .inOffset)

/-- HR_OUT (R153): a free draw while BUSY (log 9); refused at an offset of 147456 or more (R113). -/
def execHrOut (off : BitVec 29) (_data : Word) (s : State) : Host.Outcome State Fault Refusal :=
  if off.toNat < Config.outLen then
    if busy s then returnWord { s with draws := s.draws + 1 } ((Config.freeBusyByte s.draws).setWidth 32)
    else returnWord s ((readOut s off.toNat).setWidth 32)
  else .refused (.illegal .outOffset)

/-- HW_OUT (R154): ignored; refused at an offset of 147456 or more (R113). -/
def execHwOut (off : BitVec 29) (_data : Word) (s : State) : Host.Outcome State Fault Refusal :=
  if off.toNat < Config.outLen then noEffect s else .refused (.illegal .outOffset)

end Sys2Proof.Machine
end

