-- ==== Sys2Proof/Machine/Dispatch.lean ====
section
/-! DEFINITION. One arm per operation of spec/opcode_table.json. -/

namespace Sys2Proof.Machine

def exec (i : Instr) (s : State) : Host.Outcome State Fault Refusal :=
  match i with
  | .hwStart hi => Sys2Proof.Machine.execHwStart hi s
  | .hwCtrl0 hi => Sys2Proof.Machine.execHwCtrl0 hi s
  | .hrCtrl data => Sys2Proof.Machine.execHrCtrl data s
  | .hrStatus data => Sys2Proof.Machine.execHrStatus data s
  | .hwInLen data => Sys2Proof.Machine.execHwInLen data s
  | .hrInLen data => Sys2Proof.Machine.execHrInLen data s
  | .hrErrExpected data => Sys2Proof.Machine.execHrErrExpected data s
  | .hrErrActual data => Sys2Proof.Machine.execHrErrActual data s
  | .hwStatus data => Sys2Proof.Machine.execHwStatus data s
  | .hwErrExpected data => Sys2Proof.Machine.execHwErrExpected data s
  | .hwErrActual data => Sys2Proof.Machine.execHwErrActual data s
  | .hrRsvd14 data => Sys2Proof.Machine.execHrRsvd14 data s
  | .hrRsvd18 data => Sys2Proof.Machine.execHrRsvd18 data s
  | .hrRsvd1C data => Sys2Proof.Machine.execHrRsvd1C data s
  | .hwRsvd14 data => Sys2Proof.Machine.execHwRsvd14 data s
  | .hwRsvd18 data => Sys2Proof.Machine.execHwRsvd18 data s
  | .hwRsvd1C data => Sys2Proof.Machine.execHwRsvd1C data s
  | .hwIn off data => Sys2Proof.Machine.execHwIn off data s
  | .hrIn off data => Sys2Proof.Machine.execHrIn off data s
  | .hrOut off data => Sys2Proof.Machine.execHrOut off data s
  | .hwOut off data => Sys2Proof.Machine.execHwOut off data s
  | .eSizechk => Sys2Proof.Machine.execESizechk s
  | .ePixel => Sys2Proof.Machine.execEPixel s
  | .reset => Sys2Proof.Machine.execReset s
  | .attrFetch cellRow cellCol => Sys2Proof.Machine.execAttrFetch cellRow cellCol s
  | .attrSplit attr => Sys2Proof.Machine.execAttrSplit attr s
  | .cexp idx => Sys2Proof.Machine.execCexp idx s
  | .dim bright channel => Sys2Proof.Machine.execDim bright channel s
  | .clut bright idx => Sys2Proof.Machine.execClut bright idx s
  | .vrow y => Sys2Proof.Machine.execVrow y s
  | .bmpFetch physicalRow cellCol => Sys2Proof.Machine.execBmpFetch physicalRow cellCol s
  | .bitx dbyte bitIdx => Sys2Proof.Machine.execBitx dbyte bitIdx s
  | .psel p ink paper => Sys2Proof.Machine.execPsel p ink paper s
  | .pwrite y x rgb => Sys2Proof.Machine.execPwrite y x rgb s
  | .seqAdv cellRow cellCol pixY bitIdx => Sys2Proof.Machine.execSeqAdv cellRow cellCol pixY bitIdx s
  | .frame => Sys2Proof.Machine.execFrame s

end Sys2Proof.Machine
end

