-- ==== Sys2Proof/Machine/TableWords.lean ====
section
/-! DEFINITION. Placing an operation of the opcode table as the very next step (log 15): a host access, an engine step or the
reset itself, and for a datapath operation the engine step that performs it, since no step is a datapath operation alone
(R13). -/

namespace Sys2Proof.Machine

/-- The scan position with operand word `rrrrrcccccyyykkk` (R111), where cellRow is below 24. -/
def Seq.ofWord (w : BitVec 16) : Option Seq :=
  Seq.ofFields (w.extractLsb' 11 5) (w.extractLsb' 6 5) (w.extractLsb' 3 3) (w.extractLsb' 0 3)

/-- The scan position of the first pixel of a cell's line in screen row `y`, where `y` is below 192. -/
def Seq.ofRow (y : Byte) (cc : BitVec 5) (k : BitVec 3) : Option Seq :=
  Seq.ofFields (y.extractLsb' 3 5) cc (y.extractLsb' 0 3) k

/-- The cells of IN[27 .. 6938] holding the 6912 bytes of `w`, FRAME's operand (R111). That the first byte stands in the low
bits of `w`, and the others above it in rising order, is the model's choice (log 15). -/
def regionCells (w : Nat) : Memory :=
  (List.range (Config.bitmapLen + Config.attrLen)).map fun i => (Config.bitmapOff + i, BitVec.ofNat 8 (w / 2 ^ (8 * i)))

/-- IN with the region [27, 6939) replaced. -/
def loadRegion (m : Memory) (w : Nat) : Memory :=
  m.filter (fun c => decide (c.1 < Config.bitmapOff)) ++ regionCells w ++ m.filter (fun c => decide (Config.usedEnd ≤ c.1))

/-- The attribute byte with ink index `ink`, paper index `paper` and bright bit `h` (R100). -/
def attrByte (h : Bool) (paper ink : BitVec 3) : Byte := (0#1 ++ BitVec.ofBool h ++ paper ++ ink).cast (by decide)

/-- An attribute byte whose ink and paper have the two colours, if one has. -/
def attrOf (level : Byte) (ink paper : Rgb) : Option Byte :=
  ((List.range 128).map (BitVec.ofNat 8)).find? fun a =>
    clut level (attrSplit a).ink (attrSplit a).bright == ink && clut level (attrSplit a).paper (attrSplit a).bright == paper

/-- `s` about to take the pixel step at `q`. -/
def atPixel (s : State) (q : Seq) : State := { s with phase := .scan, seq := q, schedule := .engine :: s.schedule }

/-- `s` about to take the pixel step at `q`, with the attribute byte of its cell. -/
def atPixelWithAttr (s : State) (q : Seq) (a : Byte) : State := atPixel (writeIn s (attrOffset q.cellRow.val q.cellCol.val) a) q

/-- `s` about to take a pixel step in which the datapath operation has the given operands, if the block has such a step. -/
def placeStage (s : State) : Instr → Option State
  | .attrFetch cr cc => (Seq.ofFields cr cc 0 0).map (atPixel s)
  | .attrSplit attr => some (atPixelWithAttr s Seq.first attr)
  | .cexp idx => some (atPixelWithAttr s Seq.first (attrByte true 0 idx))
  | .dim h c =>
    if c = 0 ∨ c = Config.full then some (atPixelWithAttr s Seq.first (attrByte h 0 (if c = 0 then 0 else 7))) else none
  | .clut h idx => some (atPixelWithAttr s Seq.first (attrByte h 0 idx))
  | .vrow y => (Seq.ofRow y 0 0).map (atPixel s)
  | .bmpFetch pr cc => (Seq.ofRow (vrow pr) cc 0).map (atPixel s)
  | .bitx d k => (Seq.ofRow 0 0 k).map (atPixel (writeIn s (bmpOffset 0 0) d))
  | .psel p ink paper =>
    (attrOf s.params.dimLevel ink paper).map (atPixelWithAttr (writeIn s (bmpOffset 0 0) (if p then Config.full else 0)) Seq.first)
  | .pwrite y x c =>
    (Seq.ofRow y (x.extractLsb' 3 5) (x.extractLsb' 0 3)).bind fun q =>
      (attrOf s.params.dimLevel c c).map (atPixelWithAttr s q)
  | .seqAdv cr cc py k => (Seq.ofFields cr cc py k).map (atPixel s)
  | .hwStart _ | .hwCtrl0 _ | .hrCtrl _ | .hrStatus _ | .hwInLen _ | .hrInLen _ | .hrErrExpected _ | .hrErrActual _
  | .hwStatus _ | .hwErrExpected _ | .hwErrActual _ | .hrRsvd14 _ | .hrRsvd18 _ | .hrRsvd1C _ | .hwRsvd14 _ | .hwRsvd18 _
  | .hwRsvd1C _ | .hwIn _ _ | .hrIn _ _ | .hrOut _ _ | .hwOut _ _ | .eSizechk | .ePixel | .reset | .frame => none

/-- `s` with an access of no width next, which is refused (R113). -/
def atNothing (s : State) : State := { s with schedule := .host 0 0 :: s.schedule }

/-- `s` with a table word placed as the very next transition, and the operand that its row takes from the state set to the
word's: LEN_LATCH for E_SIZECHK, SEQ for E_PIXEL. FRAME's operand is the IN region, over which a scan begins. A word that
stands for no step of the block is placed as an access of no width (log 15). -/
def placeTableWord (s : State) (nbits w : Nat) : State :=
  match tableCode nbits w with
  | some (.host bytes h) => { s with schedule := .host bytes h :: s.schedule }
  | some (.engine .check) => { s with phase := .check, lenLatch := BitVec.ofNat 32 w, schedule := .engine :: s.schedule }
  | some (.engine .scan) => atPixel s ((Seq.ofWord (BitVec.ofNat 16 w)).getD s.seq)
  | some .reset => { s with schedule := .reset :: s.schedule }
  | some (.stage .frame _) => atPixel { s with inMem := loadRegion s.inMem w } Seq.first
  | some (.stage op v) =>
    match decode s.params (.stage op v) with
    | .ok i => (placeStage s i).getD (atNothing s)
    | .error _ => atNothing s
  | some (.engine .idle) | none => atNothing s

end Sys2Proof.Machine
end

