-- ==== Sys2Proof/Machine/Step.lean ====
section
/-! DEFINITION. One step: one transition of the total order of R81. -/

namespace Sys2Proof.Machine

/-- One transition: in a well-formed configuration (R12), the next scheduled code is decoded and its operation runs. -/
def step (s : State) : Host.Outcome State Fault Refusal :=
  if s.params.wellFormed then
    match fetch s with
    | none => .refused .noTransition
    | some (c, t) =>
      match decode t.params c with
      | .error why => .refused (.illegal why)
      | .ok i => exec i t
  else .refused .illFormedParams

/-- `s` with a table word placed as the very next transition (log 15). -/
def State.withFetchWord (s : State) (nbits w : Nat) : State := placeTableWord s nbits w

end Sys2Proof.Machine
end

