-- ==== Sys2Proof/Safety.lean ====
section
/-! DEFINITION. What the statements say of a run: the invariants of R42, the canonical form of memory, the progress of a scan,
and which transition comes next. -/

namespace Sys2Proof.Machine

/-! ### Which transition comes next -/

/-- The next transition is a RESET. -/
def resetNext (s : State) : Bool := s.schedule.head? == some .reset

/-- The next transition is a step of the engine (R170, R318). -/
def engineNext (s : State) : Bool :=
  match s.schedule with
  | [] => busy s
  | e :: _ => e == .engine

/-- The next transition is the host access with word `w` and width `bytes`. -/
def hostNext (s : State) (bytes : Nat) (w : Haw) : Bool := s.schedule.head? == some (.host bytes w)

/-! ### Invariants -/

/-- The invariants of R42. -/
def statusInv (s : State) : Bool :=
  !(busy s && s.done) && !(busy s && s.err) && !(s.done && s.err)
    && (s.err == (s.cause == .sizeMismatch))
    && (s.err || s.errActual == 0)
    && (!busy s || s.lenLatch == s.inLen)

/-- Both memories are in canonical form, within their spaces (R44, R45). -/
def memInv (s : State) : Bool := s.inMem.wf s.params.inCap && s.outMem.wf Config.outLen

/-- START sets SEQ to its first position (R140), where it still is at the size check; and only a passed size check leads to
SCAN (R171). -/
def scanInv (s : State) : Bool :=
  (s.phase != .check || s.seq == Seq.first) && (s.phase != .scan || s.lenLatch == Config.snapshotLenWord)

/-- The block's invariants together. -/
def blockInv (s : State) : Bool := s.params.wellFormed && statusInv s && memInv s && scanInv s

/-! ### The progress of a scan -/

/-- The number of a position's pixel in OUT's raster order (R73, R108). -/
def pixelNumber (q : Seq) : Nat := q.y * 256 + q.x

/-- Every pixel whose step came before the position SEQ names holds its frame bytes (R172, R252). -/
def scannedSoFar (s : State) : Prop :=
  ∀ q : Seq, q.index < s.seq.index → ∀ c < 3, readOut s (3 * pixelNumber q + c) = frameByte s (3 * pixelNumber q + c)

/-- While scanning, the pixels already produced hold their frame bytes; at the size check none is produced yet. -/
def scanProgress (s : State) : Prop :=
  (s.phase = .check → s.seq = Seq.first) ∧ (s.phase = .scan → scannedSoFar s)

/-- OUT equals Frame(IN), all 147456 bytes (R255). -/
def outIsFrame (s : State) : Prop := ∀ off < 147456, readOut s off = frameByte s off

/-! ### The image, by arithmetic on byte values -/

/-- One channel of the colour LUT's table (R194): 0, or 255 dimmed to DIM_LEVEL where bright is clear. -/
def tableChannel (level : Byte) (bright on : Bool) : Byte := if on then (if bright then 255 else level) else 0

/-- The LUT's table (R194): bit 1 of the index is red, bit 2 green, bit 0 blue. -/
def tableColor (level : Byte) (bright : Bool) (idx : Nat) : Rgb :=
  { r := tableChannel level bright (idx / 2 % 2 == 1), g := tableChannel level bright (idx / 4 % 2 == 1),
    b := tableChannel level bright (idx % 2 == 1) }

/-- VROW in its arithmetic form (R221). -/
def vrowNat (y : Nat) : Nat := 64 * (y / 64) + 8 * (y % 8) + y % 64 / 8

/-- The pixel (x, y) of Frame(IN) (R252), by arithmetic on the values of its attribute byte and its display byte. -/
def imagePixel (s : State) (x y : Nat) : Rgb :=
  let attr := (readIn s (6171 + y / 8 * 32 + x / 8)).toNat
  let dbyte := (readIn s (27 + vrowNat y * 32 + x / 8)).toNat
  tableColor s.params.dimLevel (attr / 64 % 2 == 1) (if dbyte / 2 ^ (7 - x % 8) % 2 = 1 then attr % 8 else attr / 8 % 8)

/-! ### What a transition leaves unchanged -/

/-- The state of R30 and the configuration are the same: nothing changed but the model's own fields. -/
def sameBlock (s t : State) : Prop :=
  t.params = s.params ∧ t.inMem = s.inMem ∧ t.outMem = s.outMem ∧ t.done = s.done ∧ t.err = s.err ∧ t.cause = s.cause ∧
    t.inLen = s.inLen ∧ t.errActual = s.errActual ∧ t.phase = s.phase ∧ t.lenLatch = s.lenLatch ∧ t.seq = s.seq ∧
    t.resets = s.resets

/-- Is the operation a host read (R79)? -/
def isHostRead : Instr → Bool
  | .hrCtrl _ | .hrStatus _ | .hrInLen _ | .hrErrExpected _ | .hrErrActual _ | .hrRsvd14 _ | .hrRsvd18 _ | .hrRsvd1C _
  | .hrIn _ _ | .hrOut _ _ => true
  | .hwStart _ | .hwCtrl0 _ | .hwInLen _ | .hwStatus _ | .hwErrExpected _ | .hwErrActual _ | .hwRsvd14 _ | .hwRsvd18 _
  | .hwRsvd1C _ | .hwIn _ _ | .hwOut _ _ | .eSizechk | .ePixel | .reset | .attrFetch _ _ | .attrSplit _ | .cexp _ | .dim _ _
  | .clut _ _ | .vrow _ | .bmpFetch _ _ | .bitx _ _ | .psel _ _ _ | .pwrite _ _ _ | .seqAdv _ _ _ _ | .frame => false

/-- Is the operation a step of the engine (R170)? -/
def isEngineStep : Instr → Bool
  | .eSizechk | .ePixel => true
  | .hwStart _ | .hwCtrl0 _ | .hrCtrl _ | .hrStatus _ | .hwInLen _ | .hrInLen _ | .hrErrExpected _ | .hrErrActual _
  | .hwStatus _ | .hwErrExpected _ | .hwErrActual _ | .hrRsvd14 _ | .hrRsvd18 _ | .hrRsvd1C _ | .hwRsvd14 _ | .hwRsvd18 _
  | .hwRsvd1C _ | .hwIn _ _ | .hrIn _ _ | .hrOut _ _ | .hwOut _ _ | .reset | .attrFetch _ _ | .attrSplit _ | .cexp _
  | .dim _ _ | .clut _ _ | .vrow _ | .bmpFetch _ _ | .bitx _ _ | .psel _ _ _ | .pwrite _ _ _ | .seqAdv _ _ _ _
  | .frame => false

end Sys2Proof.Machine
end

