-- ==== Sys2Proof/Certificates/Slice0/Obligations.lean ====
section
/-! DEFINITION. The statements for the provers. Each docstring names the rules of spec/ it formalises. -/

open Sys2Proof Sys2Proof.Machine

/-! ### Reset -/

/-- R48: the state after reset, register by register, and what the register reads return there. IN and OUT hold a free draw
per byte. That the model holds the free draws of reset number 0 there is its own naming (log 5). -/
def Obligations.ResetStateReadsAsTableGives : Prop :=
  statusWord State.reset = 0 ∧ State.reset.inLen = 0 ∧ State.reset.errActual = 0 ∧ State.reset.phase = .idle ∧
  State.reset.lenLatch = 0 ∧ State.reset.seq = { cellRow := 0, cellCol := 0, pixY := 0, bitIdx := 0 } ∧
  (∀ d, exec (.hrStatus d) State.reset = .next { State.reset with result := .toHost 0x00000000 }) ∧
  (∀ d, exec (.hrInLen d) State.reset = .next { State.reset with result := .toHost 0x00000000 }) ∧
  (∀ d, exec (.hrErrExpected d) State.reset = .next { State.reset with result := .toHost 0x0000C01B }) ∧
  (∀ d, exec (.hrErrActual d) State.reset = .next { State.reset with result := .toHost 0x00000000 }) ∧
  (∀ d, exec (.hrCtrl d) State.reset = .next { State.reset with result := .toHost 0x00000000 }) ∧
  (∀ d, exec (.hrRsvd14 d) State.reset = .next { State.reset with result := .toHost 0x00000000 }) ∧
  (∀ d, exec (.hrRsvd18 d) State.reset = .next { State.reset with result := .toHost 0x00000000 }) ∧
  (∀ d, exec (.hrRsvd1C d) State.reset = .next { State.reset with result := .toHost 0x00000000 }) ∧
  (∀ off, readIn State.reset off = Config.freeInByte 0 off) ∧ (∀ off, readOut State.reset off = Config.freeOutByte 0 off)

/-- R310, R49: RESET at any point gives the registers of R48 and a fresh free draw for every byte of IN and OUT; the
configuration survives. That the schedule, the draw count and the reset count are what they are, and that the returned value is
set to nothing, is the model's (log 1, 9, 5, 8). -/
def Obligations.ResetInputClearsTheBlock : Prop :=
  ∀ s : State, ∃ t, exec .reset s = .next t ∧
    t.done = false ∧ t.err = false ∧ t.cause = .none ∧ statusWord t = 0 ∧ t.errActual = 0 ∧ t.inLen = 0 ∧ t.lenLatch = 0 ∧
    t.seq = { cellRow := 0, cellCol := 0, pixY := 0, bitIdx := 0 } ∧ t.phase = .idle ∧
    (∀ off, readIn t off = Config.freeInByte (s.resets + 1) off) ∧
    (∀ off, readOut t off = Config.freeOutByte (s.resets + 1) off) ∧
    t.params = s.params ∧ t.schedule = s.schedule ∧ t.draws = s.draws ∧ t.resets = s.resets + 1 ∧ t.result = .nothing

/-- R311, R312: a reset taken in any state, a decode in progress included, leaves neither DONE nor ERR set and PHASE at IDLE;
after it the engine has no step, scheduled or not. -/
def Obligations.ResetAbortsDecode : Prop :=
  ∀ (s : State) (es : List Event), s.params.wellFormed = true → s.schedule = .reset :: es →
    ∃ t, step s = .next t ∧ t.phase = .idle ∧ t.done = false ∧ t.err = false ∧ t.schedule = es ∧
      step { t with schedule := [] } = .refused .noTransition ∧
      ∀ fs, step { t with schedule := .engine :: fs } = .refused (.illegal .engineIdle)

/-! ### The host accesses of the REG space -/

/-- R140's pseudocode: START from BUSY = 0 clears the result flags and ERR_ACTUAL, latches IN_LEN, puts SEQ at its first
position and PHASE at CHECK, and leaves everything else; START while BUSY = 1 changes nothing. -/
def Obligations.StartBeginsDecodeOnlyWhenIdle : Prop :=
  ∀ (hi : BitVec 31) (s : State),
    (busy s = false → exec (.hwStart hi) s = .next { s with
        done := false, err := false, cause := .none, errActual := 0x00000000, lenLatch := s.inLen,
        seq := { cellRow := 0, cellCol := 0, pixY := 0, bitIdx := 0 }, phase := .check }) ∧
    (busy s = false → ∀ t, exec (.hwStart hi) s = .next t → statusWord t = 0x00000001 ∧
        (∀ a, readIn t a = readIn s a) ∧ ∀ a, readOut t a = readOut s a) ∧
    (busy s = true → exec (.hwStart hi) s = .next s)

/-- R141: a write of CTRL with DATA[0] = 0, whatever its other bits, is HW_CTRL0 and changes no state. -/
def Obligations.ControlWriteOfZeroHasNoEffect : Prop :=
  ∀ (d : Word) (p : Params) (s : State), d.getLsbD 0 = false →
    decode p (.host 4 (haw true 0 0x00 d)) = .ok (.hwCtrl0 (d.extractLsb' 1 31)) ∧
    exec (.hwCtrl0 (d.extractLsb' 1 31)) s = .next s

/-- R142: a read of CTRL returns 0 at every time, right after a START too, and changes no state. -/
def Obligations.ControlReadReturnsZero : Prop :=
  ∀ (d : Word) (p : Params) (s : State),
    decode p (.host 4 (haw false 0 0x00 d)) = .ok (.hrCtrl d) ∧
    exec (.hrCtrl d) s = .next { s with result := .toHost 0x00000000 } ∧
    ∀ hi t, exec (.hwStart hi) s = .next t → exec (.hrCtrl d) t = .next { t with result := .toHost 0x00000000 }

/-- R143: a read of STATUS returns BUSY, DONE, ERR and CAUSE at bits 0, 1, 2 and 7:4, zeros elsewhere, and has no side effect;
under R42's invariants the only values are those of the rule's list. -/
def Obligations.StatusReadPacksFlags : Prop :=
  ∀ (d : Word) (s : State), ∃ v : Word,
    exec (.hrStatus d) s = .next { s with result := .toHost v } ∧
    v.toNat = (if s.phase = .idle then 0 else 1) + 2 * (if s.done then 1 else 0) + 4 * (if s.err then 1 else 0) +
      16 * (if s.cause = .sizeMismatch then 1 else 0) ∧
    (statusInv s = true →
      (busy s = true → v = 0x00000001) ∧ (s.done = true → v = 0x00000002) ∧ (s.err = true → v = 0x00000014) ∧
      (busy s = false → s.done = false → s.err = false → v = 0x00000000))

/-- R144: a write of IN_LEN stores DATA, any 32-bit value, while BUSY = 0, and is lost while BUSY = 1. -/
def Obligations.InLenWriteLockedWhileBusy : Prop :=
  ∀ (d : Word) (p : Params) (s : State),
    decode p (.host 4 (haw true 0 0x08 d)) = .ok (.hwInLen d) ∧
    (busy s = false → exec (.hwInLen d) s = .next { s with inLen := d }) ∧ (busy s = true → exec (.hwInLen d) s = .next s)

/-- R145: a read of IN_LEN returns it and changes no state; after reset it is 0, and after a write while BUSY = 0 it is the
value written. -/
def Obligations.InLenReadReturnsLastWrite : Prop :=
  (∀ (d : Word) (p : Params), decode p (.host 4 (haw false 0 0x08 d)) = .ok (.hrInLen d)) ∧
  (∀ (d : Word) (s : State), exec (.hrInLen d) s = .next { s with result := .toHost s.inLen }) ∧
  (∀ d s t, exec .reset s = .next t → exec (.hrInLen d) t = .next { t with result := .toHost 0x00000000 }) ∧
  (∀ d n s t, busy s = false → exec (.hwInLen n) s = .next t → exec (.hrInLen d) t = .next { t with result := .toHost n })

/-- R146: a read of ERR_EXPECTED returns 0x0000C01B in every state, also after reset and while no error is recorded. -/
def Obligations.ErrExpectedReadsSnapshotLength : Prop :=
  ∀ (d : Word) (p : Params) (s : State),
    decode p (.host 4 (haw false 0 0x0C d)) = .ok (.hrErrExpected d) ∧
    exec (.hrErrExpected d) s = .next { s with result := .toHost 0x0000C01B } ∧ (0x0000C01B : Word).toNat = 49179

/-- R147: a read of ERR_ACTUAL returns it and changes no state; it is 0 while ERR = 0 (under R42's invariants), and the failing
length after a SizeMismatch. -/
def Obligations.ErrActualReadsFailingLength : Prop :=
  (∀ (d : Word) (p : Params), decode p (.host 4 (haw false 0 0x10 d)) = .ok (.hrErrActual d)) ∧
  (∀ (d : Word) (s : State), exec (.hrErrActual d) s = .next { s with result := .toHost s.errActual }) ∧
  (∀ d s, statusInv s = true → s.err = false → exec (.hrErrActual d) s = .next { s with result := .toHost 0x00000000 }) ∧
  (∀ d s t, s.phase = .check → s.lenLatch.toNat ≠ 49179 → exec .eSizechk s = .next t →
    exec (.hrErrActual d) t = .next { t with result := .toHost s.lenLatch })

/-- R148: writes of STATUS, ERR_EXPECTED and ERR_ACTUAL change no state, at every time and for every DATA. -/
def Obligations.ReadOnlyRegisterWritesIgnored : Prop :=
  ∀ (d : Word) (p : Params) (s : State),
    decode p (.host 4 (haw true 0 0x04 d)) = .ok (.hwStatus d) ∧ exec (.hwStatus d) s = .next s ∧
    decode p (.host 4 (haw true 0 0x0C d)) = .ok (.hwErrExpected d) ∧ exec (.hwErrExpected d) s = .next s ∧
    decode p (.host 4 (haw true 0 0x10 d)) = .ok (.hwErrActual d) ∧ exec (.hwErrActual d) s = .next s

/-- R149, R150: the reserved offsets 0x14, 0x18 and 0x1C read 0 and ignore writes; offsets of 0x20 and more, and misaligned
ones, are not reserved but select nothing. -/
def Obligations.ReservedOffsetsReadZeroIgnoreWrites : Prop :=
  ∀ (d : Word) (p : Params) (s : State),
    decode p (.host 4 (haw false 0 0x14 d)) = .ok (.hrRsvd14 d) ∧
    decode p (.host 4 (haw false 0 0x18 d)) = .ok (.hrRsvd18 d) ∧
    decode p (.host 4 (haw false 0 0x1C d)) = .ok (.hrRsvd1C d) ∧
    decode p (.host 4 (haw true 0 0x14 d)) = .ok (.hwRsvd14 d) ∧
    decode p (.host 4 (haw true 0 0x18 d)) = .ok (.hwRsvd18 d) ∧
    decode p (.host 4 (haw true 0 0x1C d)) = .ok (.hwRsvd1C d) ∧
    exec (.hrRsvd14 d) s = .next { s with result := .toHost 0x00000000 } ∧
    exec (.hrRsvd18 d) s = .next { s with result := .toHost 0x00000000 } ∧
    exec (.hrRsvd1C d) s = .next { s with result := .toHost 0x00000000 } ∧
    exec (.hwRsvd14 d) s = .next s ∧ exec (.hwRsvd18 d) s = .next s ∧ exec (.hwRsvd1C d) s = .next s ∧
    ∀ (w : Bool) (off : BitVec 29), 0x20 ≤ off.toNat ∨ off.toNat % 4 ≠ 0 → ∀ i, decode p (.host 4 (haw w 0 off d)) ≠ .ok i

/-! ### The host accesses of the IN and OUT windows -/

/-- R151, R72: a write of IN[off] while BUSY = 0 stores DATA[7:0] there and changes no other byte of IN or OUT and nothing else;
while BUSY = 1 it changes nothing; at off >= IN_CAP it is refused. A write to a header or trailing byte never changes the image
that a decode makes. -/
def Obligations.InWriteStoresOneByte : Prop :=
  ∀ (off : BitVec 29) (d : Word) (s : State),
    (off.toNat < s.params.inCap → busy s = false → ∃ t, exec (.hwIn off d) s = .next t ∧
      (∀ a, readIn t a = if a = off.toNat then d.extractLsb' 0 8 else readIn s a) ∧
      (∀ a, readOut t a = readOut s a) ∧ t = { s with inMem := t.inMem } ∧
      (off.toNat < 27 ∨ 6939 ≤ off.toNat → ∀ o < 147456, frameByte t o = frameByte s o)) ∧
    (off.toNat < s.params.inCap → busy s = true → exec (.hwIn off d) s = .next s) ∧
    (s.params.inCap ≤ off.toNat → exec (.hwIn off d) s = .refused (.illegal .inOffset))

/-- R152: a read of IN[off] returns the stored byte, zero-extended, also while BUSY = 1, and changes no state; right after a
write while BUSY = 0 it is the byte written; at off >= IN_CAP it is refused. -/
def Obligations.InReadReturnsStoredByte : Prop :=
  ∀ (off : BitVec 29) (d : Word) (s : State),
    (off.toNat < s.params.inCap → ∃ v : Word, exec (.hrIn off d) s = .next { s with result := .toHost v } ∧
      v.toNat = (readIn s off.toNat).toNat) ∧
    (off.toNat < s.params.inCap → busy s = false → ∀ e t, exec (.hwIn off e) s = .next t →
      exec (.hrIn off d) t = .next { t with result := .toHost ((e.extractLsb' 0 8).setWidth 32) }) ∧
    (s.params.inCap ≤ off.toNat → exec (.hrIn off d) s = .refused (.illegal .inOffset))

/-- R153: a read of OUT[off] while BUSY = 0 returns the stored byte and changes no state; while BUSY = 1 it returns some byte
value, a free draw of which nothing is said, and changes no state of the block; at off >= 147456 it is refused. That a draw
advances a counter is the model's (log 9). -/
def Obligations.OutReadReturnsByteOrFreeDraw : Prop :=
  ∀ (off : BitVec 29) (d : Word) (s : State),
    (off.toNat < 147456 → busy s = false → ∃ v : Word, exec (.hrOut off d) s = .next { s with result := .toHost v } ∧
      v.toNat = (readOut s off.toNat).toNat) ∧
    (off.toNat < 147456 → busy s = true → ∃ v : Word, v.toNat < 256 ∧
      exec (.hrOut off d) s = .next { s with result := .toHost v, draws := s.draws + 1 }) ∧
    (147456 ≤ off.toNat → exec (.hrOut off d) s = .refused (.illegal .outOffset))

/-- R154: a host write of OUT is ignored at every time; at off >= 147456 it is refused. -/
def Obligations.OutWriteIgnored : Prop :=
  ∀ (off : BitVec 29) (d : Word) (s : State),
    (off.toNat < 147456 → exec (.hwOut off d) s = .next s) ∧
    (147456 ≤ off.toNat → exec (.hwOut off d) s = .refused (.illegal .outOffset))

/-- R79: a host read that completes changes no state of the block, whatever the read. -/
def Obligations.HostReadsHaveNoSideEffect : Prop :=
  ∀ (i : Instr) (s t : State), isHostRead i = true → exec i s = .next t →
    sameBlock s t ∧ t.schedule = s.schedule ∧ (∀ a, readIn t a = readIn s a) ∧ (∀ a, readOut t a = readOut s a) ∧
    statusWord t = statusWord s ∧ ∃ v, t.result = .toHost v

/-- R113, R77: a host access selects an operation exactly when its space, width, alignment and offset are legal; a step whose
next transition is any other access is refused. Fields by arithmetic on the word: S = bits 62:61, OFF = bits 60:32. -/
def Obligations.IllegalHostAccessesRefused : Prop :=
  (∀ (p : Params) (n : Nat) (w : Haw),
    (∃ i, decode p (.host n w) = .ok i) ↔
      (w.toNat / 2 ^ 61 % 4 = 0 ∧ n = 4 ∧ w.toNat / 2 ^ 32 % 2 ^ 29 < 0x20 ∧ w.toNat / 2 ^ 32 % 2 ^ 29 % 4 = 0) ∨
      (w.toNat / 2 ^ 61 % 4 = 1 ∧ n = 1 ∧ w.toNat / 2 ^ 32 % 2 ^ 29 < p.inCap) ∨
      (w.toNat / 2 ^ 61 % 4 = 2 ∧ n = 1 ∧ w.toNat / 2 ^ 32 % 2 ^ 29 < 147456)) ∧
  (∀ (s : State) (n : Nat) (w : Haw), s.params.wellFormed = true → hostNext s n w = true →
    (∀ i, decode s.params (.host n w) ≠ .ok i) → ∃ why, step s = .refused (.illegal why))

/-! ### The engine -/

/-- R170, R312: with PHASE = IDLE the engine has no step, whether one is scheduled or nothing is; and each engine operation
runs only in the PHASE that selects it. -/
def Obligations.IdleEngineHasNoStep : Prop :=
  (∀ s : State, s.params.wellFormed = true → s.phase = .idle → s.schedule = [] → step s = .refused .noTransition) ∧
  (∀ (s : State) (es : List Event), s.params.wellFormed = true → s.phase = .idle → s.schedule = .engine :: es →
    step s = .refused (.illegal .engineIdle)) ∧
  (∀ s : State, s.phase ≠ .check → exec .eSizechk s = .refused .notThisPhase) ∧
  (∀ s : State, s.phase ≠ .scan → exec .ePixel s = .refused .notThisPhase)

/-- R171, R282: the size check compares all 32 bits of LEN_LATCH with 49179. On equality PHASE becomes SCAN and nothing else
changes. Otherwise SizeMismatch is raised: ERR_ACTUAL, CAUSE, ERR and PHASE change and nothing else, and STATUS reads
0x00000014 where DONE was 0. -/
def Obligations.SizeCheckScansOrRaises : Prop :=
  ∀ s : State, s.phase = .check →
    (s.lenLatch.toNat = 49179 → exec .eSizechk s = .next { s with phase := .scan }) ∧
    (s.lenLatch.toNat ≠ 49179 → exec .eSizechk s = .next { s with
      errActual := s.lenLatch, cause := .sizeMismatch, err := true, phase := .idle }) ∧
    (s.lenLatch.toNat ≠ 49179 → s.done = false → ∀ t, exec .eSizechk s = .next t → statusWord t = 0x00000014)

/-- R281, R280: an error appears only at a step of the engine in PHASE CHECK whose LEN_LATCH is not 49179; that step records
LEN_LATCH in ERR_ACTUAL and changes no byte of IN or OUT (R283). -/
def Obligations.ErrorRaisedOnlyBySizeCheck : Prop :=
  ∀ s t : State, step s = .next t → s.err = false → t.err = true →
    engineNext s = true ∧ s.phase = .check ∧ s.lenLatch.toNat ≠ 49179 ∧ t.errActual = s.lenLatch ∧
    t.cause = .sizeMismatch ∧ (∀ a, readIn t a = readIn s a) ∧ ∀ a, readOut t a = readOut s a

/-- R175, R251, R252: a pixel step writes the three bytes of the pixel that SEQ names with the bytes of Frame(IN), and leaves
every other byte of OUT, all of IN, and every register but SEQ, PHASE and DONE. -/
def Obligations.PixelStepWritesItsFramePixel : Prop :=
  ∀ s : State, s.phase = .scan → ∃ t, exec .ePixel s = .next t ∧
    (∀ a, readOut t a =
      if a / 3 = (s.seq.cellRow.val * 8 + s.seq.pixY.val) * 256 + (s.seq.cellCol.val * 8 + s.seq.bitIdx.val) then frameByte s a
      else readOut s a) ∧
    (∀ a, readIn t a = readIn s a) ∧
    t = { s with outMem := t.outMem, seq := t.seq, phase := t.phase, done := t.done }

/-- R173, R174: after its write a pixel step moves SEQ to the position with the next number, and changes no flag; at the last
position it leaves SEQ, sets DONE and puts PHASE at IDLE, and leaves ERR and CAUSE. -/
def Obligations.PixelStepAdvancesOrCompletes : Prop :=
  ∀ s t : State, s.phase = .scan → exec .ePixel s = .next t →
    (s.seq.index < 49151 → t.seq.index = s.seq.index + 1 ∧ t.phase = .scan ∧ t.done = s.done ∧ t.err = s.err ∧
      t.cause = s.cause ∧ busy t = true) ∧
    (s.seq.index = 49151 → t.seq = s.seq ∧ t.phase = .idle ∧ t.done = true ∧ t.err = s.err ∧ t.cause = s.cause ∧ busy t = false ∧
      s.seq.cellRow = 23 ∧ s.seq.cellCol = 31 ∧ s.seq.pixY = 7 ∧ s.seq.bitIdx = 7)

/-- R175, R16: a pixel step is the composition of the datapath operations, each run with the value the one before returned. -/
def Obligations.PixelStepComposesDatapath : Prop :=
  ∀ (s : State) (cr cc : BitVec 5) (py k : BitVec 3), s.phase = .scan →
    cr.toNat = s.seq.cellRow.val → cc.toNat = s.seq.cellCol.val → py.toNat = s.seq.pixY.val → k.toNat = s.seq.bitIdx.val →
    ∃ (attr : Byte) (f : AttrFields) (ink paper : Rgb) (pr dbyte : Byte) (p : Bool) (c : Rgb) (u : State),
      exec (.attrFetch cr cc) s = .next { s with result := .byte attr } ∧
      exec (.attrSplit attr) s = .next { s with result := .fields f } ∧
      exec (.clut f.bright f.ink) s = .next { s with result := .rgb ink } ∧
      exec (.clut f.bright f.paper) s = .next { s with result := .rgb paper } ∧
      exec (.vrow (BitVec.ofNat 8 (cr.toNat * 8 + py.toNat))) s = .next { s with result := .byte pr } ∧
      exec (.bmpFetch pr cc) s = .next { s with result := .byte dbyte } ∧
      exec (.bitx dbyte k) s = .next { s with result := .bit p } ∧
      exec (.psel p ink paper) s = .next { s with result := .rgb c } ∧
      exec (.pwrite (BitVec.ofNat 8 (cr.toNat * 8 + py.toNat)) (BitVec.ofNat 8 (cc.toNat * 8 + k.toNat)) c) s = .next u ∧
      (s.seq.index = 49151 → exec .ePixel s = .next { u with phase := .idle, done := true }) ∧
      (s.seq.index < 49151 → ∃ q, exec (.seqAdv cr cc py k) s = .next { s with result := .position q } ∧
        exec .ePixel s = .next { u with seq := q })

/-- R173, R172: SEQ_ADV of a position in range returns the position whose number is one more, and changes no state; at the last
position and outside the range, where R173 does not apply it, it is refused: that is the model's (log 11). -/
def Obligations.SeqAdvReturnsNextPosition : Prop :=
  ∀ (cr cc : BitVec 5) (py k : BitVec 3) (s : State),
    (cr.toNat < 24 → ((cr.toNat * 32 + cc.toNat) * 8 + py.toNat) * 8 + k.toNat ≠ 49151 →
      ∃ q : Seq, exec (.seqAdv cr cc py k) s = .next { s with result := .position q } ∧
        ((q.cellRow.val * 32 + q.cellCol.val) * 8 + q.pixY.val) * 8 + q.bitIdx.val =
          ((cr.toNat * 32 + cc.toNat) * 8 + py.toNat) * 8 + k.toNat + 1) ∧
    (24 ≤ cr.toNat ∨ ((cr.toNat * 32 + cc.toNat) * 8 + py.toNat) * 8 + k.toNat = 49151 →
      exec (.seqAdv cr cc py k) s = .refused (.illegal .stageOperand))

/-- R172, R173, R177: starting at (0, 0, 0, 0), n steps of SEQ_ADV lead to the position with number n, for n in 0..49151; these
49152 positions are all the positions there are; and each pixel (x, y) of 0..255 x 0..191 is the pixel of exactly one n. -/
def Obligations.ScanVisitsEveryPixelOnce : Prop :=
  (∀ n < 49152, (seqAdv^[n] Seq.first).index = n) ∧
  (∀ q : Seq, ∃! n, n < 49152 ∧ seqAdv^[n] Seq.first = q) ∧
  (∀ x < 256, ∀ y < 192, ∃! n, n < 49152 ∧ (seqAdv^[n] Seq.first).x = x ∧ (seqAdv^[n] Seq.first).y = y) ∧
  (∀ q : Seq, q.index = ((q.cellRow.val * 32 + q.cellCol.val) * 8 + q.pixY.val) * 8 + q.bitIdx.val ∧
    q.x = q.cellCol.val * 8 + q.bitIdx.val ∧ q.y = q.cellRow.val * 8 + q.pixY.val ∧ q.x < 256 ∧ q.y < 192) ∧
  (∀ x < 256, ∀ y < 192, ∃! q : Seq, q.x = x ∧ q.y = y) ∧
  (∀ n < 49152, ∃! q : Seq, q.index = n)

/-! ### The datapath operations -/

/-- R190: ATTR_FETCH of a cell in range returns the IN byte at 6171 + cellRow*32 + cellCol, an offset in 6171..6938, and changes
no state; a cellRow of 24 or more is outside its operand range, and that it is refused is the model's (log 11). -/
def Obligations.AttrFetchReadsCellAttribute : Prop :=
  ∀ (cr cc : BitVec 5) (s : State),
    (cr.toNat < 24 → exec (.attrFetch cr cc) s = .next { s with result := .byte (readIn s (6171 + cr.toNat * 32 + cc.toNat)) } ∧
      6171 + cr.toNat * 32 + cc.toNat ≤ 6938) ∧
    (24 ≤ cr.toNat → exec (.attrFetch cr cc) s = .refused (.illegal .stageOperand))

/-- R191: ATTR_SPLIT returns ink = attr[2:0], paper = attr[5:3], bright = attr[6], flash = attr[7], for all 256 values. -/
def Obligations.AttrSplitReturnsFields : Prop :=
  ∀ (attr : Byte) (s : State), ∃ f : AttrFields, exec (.attrSplit attr) s = .next { s with result := .fields f } ∧
    f.ink.toNat = attr.toNat % 8 ∧ f.paper.toNat = attr.toNat / 8 % 8 ∧
    (f.bright = true ↔ attr.toNat / 64 % 2 = 1) ∧ (f.flash = true ↔ attr.toNat / 128 = 1)

/-- R192: CEXP returns 0xFF in red, green and blue where index bits 1, 2 and 0 are set, and 0x00 where they are clear. -/
def Obligations.CexpMasksChannels : Prop :=
  ∀ (idx : BitVec 3) (s : State), ∃ c : Rgb, exec (.cexp idx) s = .next { s with result := .rgb c } ∧
    c.r = (if idx.getLsbD 1 then 0xFF else 0x00) ∧ c.g = (if idx.getLsbD 2 then 0xFF else 0x00) ∧
    c.b = (if idx.getLsbD 0 then 0xFF else 0x00)

/-- R193: DIM returns the channel where bright is set; where it is clear, 0 for 0 and DIM_LEVEL for 255, and floor(c*7/8) for
every other channel value, which is the value R193 gives a model that defines DIM on all bytes. With DIM_LEVEL = 223 the
last formula holds at every channel value. That the model defines DIM on all bytes is its own choice (log 13). -/
def Obligations.DimScalesChannel : Prop :=
  ∀ (c : Byte) (s : State),
    exec (.dim true c) s = .next { s with result := .byte c } ∧
    exec (.dim false 0) s = .next { s with result := .byte 0 } ∧
    exec (.dim false 255) s = .next { s with result := .byte s.params.dimLevel } ∧
    (c ≠ 255 → exec (.dim false c) s = .next { s with result := .byte (BitVec.ofNat 8 (c.toNat * 7 / 8)) }) ∧
    (s.params.dimLevel = 223 → ∃ v : Byte, exec (.dim false c) s = .next { s with result := .byte v } ∧ v.toNat = c.toNat * 7 / 8)

/-- R194: CLUT(idx, bright) is DIM of each channel of CEXP(idx), and with DIM_LEVEL = 223 its 16 entries are the table's; with
any other DIM_LEVEL the 223 entries read that level and nothing else changes. -/
def Obligations.ClutReturnsTableEntry : Prop :=
  (∀ (idx : BitVec 3) (bright : Bool) (s : State), ∃ c : Rgb, exec (.clut bright idx) s = .next { s with result := .rgb c } ∧
    c = tableColor s.params.dimLevel bright idx.toNat ∧
    (∀ u, exec (.cexp idx) s = .next { s with result := .rgb u } →
      exec (.dim bright u.r) s = .next { s with result := .byte c.r } ∧
      exec (.dim bright u.g) s = .next { s with result := .byte c.g } ∧
      exec (.dim bright u.b) s = .next { s with result := .byte c.b })) ∧
  (List.range 8).map (tableColor 223 true) =
    [⟨0, 0, 0⟩, ⟨0, 0, 255⟩, ⟨255, 0, 0⟩, ⟨255, 0, 255⟩, ⟨0, 255, 0⟩, ⟨0, 255, 255⟩, ⟨255, 255, 0⟩, ⟨255, 255, 255⟩] ∧
  (List.range 8).map (tableColor 223 false) =
    [⟨0, 0, 0⟩, ⟨0, 0, 223⟩, ⟨223, 0, 0⟩, ⟨223, 0, 223⟩, ⟨0, 223, 0⟩, ⟨0, 223, 223⟩, ⟨223, 223, 0⟩, ⟨223, 223, 223⟩]

/-- R220: VROW(y) is y[7:6] ++ y[2:0] ++ y[5:3]: the third stays, the pixel line and the character row swap; its values at 0, 1,
7, 8 and 63 are the source's. That a y of 192 and more takes the same formula is R221's reading of it (log 11). -/
def Obligations.VrowSwapsLineAndCharacterRow : Prop :=
  ∀ s : State,
    (∀ y : Byte, ∃ v : Byte, exec (.vrow y) s = .next { s with result := .byte v } ∧
      v.extractLsb' 6 2 = y.extractLsb' 6 2 ∧ v.extractLsb' 3 3 = y.extractLsb' 0 3 ∧ v.extractLsb' 0 3 = y.extractLsb' 3 3) ∧
    exec (.vrow 0) s = .next { s with result := .byte 0 } ∧ exec (.vrow 1) s = .next { s with result := .byte 8 } ∧
    exec (.vrow 7) s = .next { s with result := .byte 56 } ∧ exec (.vrow 8) s = .next { s with result := .byte 1 } ∧
    exec (.vrow 63) s = .next { s with result := .byte 63 }

/-- R221: VROW is an involution on every 8-bit y, keeps 0..191 and each third of it, and is
64*floor(y/64) + 8*(y mod 8) + floor((y mod 64)/8). -/
def Obligations.VrowIsInvolutionWithArithmeticForm : Prop :=
  ∀ (y : Byte) (s : State), ∃ v : Byte, exec (.vrow y) s = .next { s with result := .byte v } ∧
    exec (.vrow v) s = .next { s with result := .byte y } ∧ (y.toNat ≤ 191 → v.toNat ≤ 191) ∧ v.toNat / 64 = y.toNat / 64 ∧
    v.toNat = 64 * (y.toNat / 64) + 8 * (y.toNat % 8) + y.toNat % 64 / 8

/-- R222: BMP_FETCH of a scanline in range returns the IN byte at 27 + physicalRow*32 + cellCol, an offset in 27..6170, and
changes no state; a physicalRow of 192 or more is outside its operand range, and that it is refused is the model's (log 11). -/
def Obligations.BmpFetchReadsDisplayByte : Prop :=
  ∀ (pr : Byte) (cc : BitVec 5) (s : State),
    (pr.toNat < 192 → exec (.bmpFetch pr cc) s = .next { s with result := .byte (readIn s (27 + pr.toNat * 32 + cc.toNat)) } ∧
      27 + pr.toNat * 32 + cc.toNat ≤ 6170) ∧
    (192 ≤ pr.toNat → exec (.bmpFetch pr cc) s = .refused (.illegal .stageOperand))

/-- R223: BITX returns bit 7 - bitIdx of the display byte, (dbyte >> (7 - k)) & 1. -/
def Obligations.BitxReadsMostSignificantFirst : Prop :=
  ∀ (dbyte : Byte) (k : BitVec 3) (s : State), ∃ p : Bool, exec (.bitx dbyte k) s = .next { s with result := .bit p } ∧
    (p = true ↔ dbyte.toNat / 2 ^ (7 - k.toNat) % 2 = 1)

/-- R250: PSEL returns ink where p = 1 and paper where p = 0; where ink = paper the result does not depend on p; with ink and
paper index 0 it is black for every p and both values of bright. -/
def Obligations.PselSelectsInkOrPaper : Prop :=
  ∀ (ink paper : Rgb) (s : State),
    exec (.psel true ink paper) s = .next { s with result := .rgb ink } ∧
    exec (.psel false ink paper) s = .next { s with result := .rgb paper } ∧
    (∀ p q, exec (.psel p ink ink) s = exec (.psel q ink ink) s) ∧
    ∀ p bright, exec (.psel p (tableColor s.params.dimLevel bright 0) (tableColor s.params.dimLevel bright 0)) s =
      .next { s with result := .rgb ⟨0, 0, 0⟩ }

/-- R251: PWRITE writes r, g, b at OUT offsets (y*256 + x)*3 + 0, 1, 2, inside OUT, and changes no other byte and nothing else;
a y of 192 or more is outside its operand range, and that it is refused is the model's (log 11). -/
def Obligations.PwriteStoresTriplet : Prop :=
  ∀ (y x : Byte) (c : Rgb) (s : State),
    (y.toNat < 192 → ∃ t, exec (.pwrite y x c) s = .next t ∧
      readOut t ((y.toNat * 256 + x.toNat) * 3 + 0) = c.r ∧ readOut t ((y.toNat * 256 + x.toNat) * 3 + 1) = c.g ∧
      readOut t ((y.toNat * 256 + x.toNat) * 3 + 2) = c.b ∧
      (∀ a, a < (y.toNat * 256 + x.toNat) * 3 ∨ (y.toNat * 256 + x.toNat) * 3 + 2 < a → readOut t a = readOut s a) ∧
      (y.toNat * 256 + x.toNat) * 3 + 2 ≤ 147455 ∧ (∀ a, readIn t a = readIn s a) ∧ t = { s with outMem := t.outMem }) ∧
    (192 ≤ y.toNat → exec (.pwrite y x c) s = .refused (.illegal .stageOperand))

/-- R252: FRAME returns 147456 bytes; for every pixel they are its red, green and blue, in that order, of the closed form; and it
changes no state. -/
def Obligations.FrameReturnsClosedFormImage : Prop :=
  ∀ s : State, ∃ bs : List Byte, exec .frame s = .next { s with result := .frame bs } ∧ bs.length = 147456 ∧
    ∀ x < 256, ∀ y < 192,
      bs[(y * 256 + x) * 3 + 0]? = some (imagePixel s x y).r ∧ bs[(y * 256 + x) * 3 + 1]? = some (imagePixel s x y).g ∧
      bs[(y * 256 + x) * 3 + 2]? = some (imagePixel s x y).b

/-! ### The image -/

/-- R253, R72: the image depends on IN[27 .. 6938] and DIM_LEVEL alone: on no other IN byte, no register, no earlier OUT, no
schedule. -/
def Obligations.ImageDependsOnUsedBytesAlone : Prop :=
  ∀ s t s' t' : State, s.params.dimLevel = t.params.dimLevel → (∀ a, 27 ≤ a → a ≤ 6938 → readIn s a = readIn t a) →
    exec .frame s = .next s' → exec .frame t = .next t' → s'.result = t'.result

/-- R196, R101: inverting bit 7 of an attribute byte, by a host write while BUSY = 0, changes no byte of the image. -/
def Obligations.FlashBitNeverReachesImage : Prop :=
  ∀ (s t : State) (off : BitVec 29) (d : Word), busy s = false → off.toNat < s.params.inCap →
    6171 ≤ off.toNat → off.toNat ≤ 6938 → d.extractLsb' 0 8 = readIn s off.toNat ^^^ 0x80 →
    exec (.hwIn off d) s = .next t → ∀ o < 147456, frameByte t o = frameByte s o

/-- R224, R225: the display byte at IN offset o holds the 8 pixels x = 8*((o-27) mod 32) + k of screen row
VROW(floor((o-27)/32)); pixel k is the cell's ink where bit 7 - k is set and its paper where it is clear. -/
def Obligations.DisplayByteHoldsEightPixels : Prop :=
  ∀ (s : State) (o k : Nat), 27 ≤ o → o ≤ 6170 → k < 8 →
    let x := 8 * ((o - 27) % 32) + k
    let y := vrowNat ((o - 27) / 32)
    let attr := (readIn s (6171 + y / 8 * 32 + x / 8)).toNat
    ∀ c < 3, frameByte s ((y * 256 + x) * 3 + c) = rgbChannel
      (if (readIn s o).toNat / 2 ^ (7 - k) % 2 = 1 then tableColor s.params.dimLevel (attr / 64 % 2 == 1) (attr % 8)
       else tableColor s.params.dimLevel (attr / 64 % 2 == 1) (attr / 8 % 8)) c

/-- R108: every byte of the image is 0, DIM_LEVEL or 255. -/
def Obligations.ImageBytesTakeThreeValues : Prop :=
  ∀ (s : State) (off : Nat), off < 147456 → frameByte s off = 0 ∨ frameByte s off = s.params.dimLevel ∨ frameByte s off = 255

/-! ### Invariants and whole-machine rules -/

/-- R48, R42: the state after reset meets the block's invariants and the progress of a scan, having none. -/
def Obligations.ResetStateMeetsInvariants : Prop := blockInv State.reset = true ∧ scanProgress State.reset

/-- R42, R41, R44, R45: every step keeps the block's invariants: R42's four, both memories canonical and inside their spaces, a
well-formed configuration, SEQ at its first position at the size check, and LEN_LATCH = 49179 while scanning. Of these the
canonical form is the model's (log 5). -/
def Obligations.EveryStepKeepsInvariants : Prop := ∀ s t : State, blockInv s = true → step s = .next t → blockInv t = true

/-- R42, R33: a step changes DONE, ERR or CAUSE only at a START taken from BUSY = 0, at the size check, at the last pixel, or at a
reset. -/
def Obligations.FlagsChangeOnlyAtFourPlaces : Prop :=
  ∀ s t : State, step s = .next t → (t.done ≠ s.done ∨ t.err ≠ s.err ∨ t.cause ≠ s.cause) →
    resetNext s = true ∨
    (engineNext s = true ∧ s.phase = .check) ∨
    (engineNext s = true ∧ s.phase = .scan ∧ s.seq.index = 49151) ∨
    (busy s = false ∧ ∃ d : Word, d.getLsbD 0 = true ∧ hostNext s 4 (haw true 0 0x00 d) = true)

/-- R179: the only changes of PHASE are IDLE to CHECK at START, CHECK to SCAN or IDLE at the size check, SCAN to IDLE at the last
pixel, and any to IDLE at reset. -/
def Obligations.PhaseChangesOnlyAsListed : Prop :=
  ∀ s t : State, step s = .next t → t.phase ≠ s.phase →
    (resetNext s = true ∧ t.phase = .idle) ∨
    (s.phase = .idle ∧ t.phase = .check ∧ ∃ d : Word, d.getLsbD 0 = true ∧ hostNext s 4 (haw true 0 0x00 d) = true) ∨
    (s.phase = .check ∧ engineNext s = true ∧ (s.lenLatch.toNat = 49179 ∧ t.phase = .scan ∨ s.lenLatch.toNat ≠ 49179 ∧ t.phase = .idle)) ∨
    (s.phase = .scan ∧ engineNext s = true ∧ s.seq.index = 49151 ∧ t.phase = .idle)

/-- R83: while BUSY = 1, no transition but a reset changes IN, IN_LEN or LEN_LATCH. -/
def Obligations.InputsLockedWhileBusy : Prop :=
  ∀ s t : State, busy s = true → resetNext s = false → step s = .next t →
    (∀ a, readIn t a = readIn s a) ∧ t.inMem = s.inMem ∧ t.inLen = s.inLen ∧ t.lenLatch = s.lenLatch

/-- R45, R154, R255: a step changes a byte of OUT only where it is a pixel step or a reset. -/
def Obligations.OutChangesOnlyInScanSteps : Prop :=
  ∀ (s t : State) (a : Nat), step s = .next t → readOut t a ≠ readOut s a →
    (engineNext s = true ∧ s.phase = .scan) ∨ resetNext s = true

/-- R37, R47: no transition reads what the one before returned: the two runs that differ in it alone end alike, and in states
that differ in it alone or not at all. -/
def Obligations.ReturnedValueIsNeverRead : Prop :=
  ∀ (i : Instr) (s : State) (r : Result),
    (∀ t, exec i s = .next t → ∃ r', exec i { s with result := r } = .next { t with result := r' } ∧ (r' = t.result ∨ r' = r)) ∧
    (∀ why, exec i s = .refused why → exec i { s with result := r } = .refused why)

/-- R12: a step in a configuration whose IN window is smaller than the snapshot, the one condition of R12 that a configuration
can break, is refused. That a DIM_LEVEL other than the two values R11 documents is refused too is no condition of R12 but the
model's own choice (log 7). -/
def Obligations.IllFormedConfigurationRefused : Prop :=
  ∀ s : State, (s.params.inCap < 49179 ∨ (s.params.dimLevel ≠ 223 ∧ s.params.dimLevel ≠ 221) →
      step s = .refused .illFormedParams) ∧
    (49179 ≤ s.params.inCap → s.params.dimLevel = 223 ∨ s.params.dimLevel = 221 → s.params.wellFormed = true)

/-- R155, R310: every host access of R111 completes at any time, whatever STATUS is, and so does a reset. That a datapath
operation with operands in range, evaluated alone, has a value in every state, is the model's (log 3); R112 calls all its data
legal. -/
def Obligations.WellFormedOperationsComplete : Prop :=
  ∀ (i : Instr) (s : State), i.wellFormed s.params = true → isEngineStep i = false → ∃ t, exec i s = .next t

/-! ### Encoding and step -/

/-- R111, R170: a step runs the operation that the next transition's code decodes to, on the state with that transition taken
off the schedule; with nothing scheduled and PHASE not IDLE it runs the engine's step. R13: a step that answers a next state is
exactly one host access, one engine step or one reset. That the schedule holds what comes next is the model's (log 1, 2). -/
def Obligations.StepRunsTheNextOperation : Prop :=
  (∀ (s : State) (i : Instr), s.params.wellFormed = true →
    (∀ n w es, s.schedule = .host n w :: es → decode s.params (.host n w) = .ok i →
      step s = exec i { s with schedule := es }) ∧
    (∀ es, s.schedule = .reset :: es → step s = exec .reset { s with schedule := es }) ∧
    (∀ es, s.schedule = .engine :: es → s.phase = .check → step s = exec .eSizechk { s with schedule := es }) ∧
    (∀ es, s.schedule = .engine :: es → s.phase = .scan → step s = exec .ePixel { s with schedule := es }) ∧
    (s.schedule = [] → s.phase = .check → step s = exec .eSizechk s) ∧
    (s.schedule = [] → s.phase = .scan → step s = exec .ePixel s)) ∧
  (∀ s t : State, step s = .next t →
    (∃ n w i, hostNext s n w = true ∧ decode s.params (.host n w) = .ok i ∧
      exec i { s with schedule := s.schedule.tail } = .next t) ∨
    (engineNext s = true ∧ s.phase = .check ∧ exec .eSizechk { s with schedule := s.schedule.tail } = .next t) ∨
    (engineNext s = true ∧ s.phase = .scan ∧ exec .ePixel { s with schedule := s.schedule.tail } = .next t) ∨
    (resetNext s = true ∧ exec .reset { s with schedule := s.schedule.tail } = .next t))

/-- R111, R113: for every one of the 21 host operations a word written out from R111's layout decodes to it, some of these words
taken from the programs of spec/95_test_vectors.md; and the three refused accesses of its section 2.8 are rejected. -/
def Obligations.HostWordsDecodeAsWritten : Prop :=
  decode Params.default (.host 4 0x8000000000000001) = .ok (.hwStart 0) ∧
  decode Params.default (.host 4 0x80000000FFFFFFFE) = .ok (.hwCtrl0 0x7FFFFFFF) ∧
  decode Params.default (.host 4 0x0000000000000000) = .ok (.hrCtrl 0) ∧
  decode Params.default (.host 4 0x0000000400000000) = .ok (.hrStatus 0) ∧
  decode Params.default (.host 4 0x800000080000C01B) = .ok (.hwInLen 49179) ∧
  decode Params.default (.host 4 0x0000000800000000) = .ok (.hrInLen 0) ∧
  decode Params.default (.host 4 0x0000000C00000000) = .ok (.hrErrExpected 0) ∧
  decode Params.default (.host 4 0x0000001000000000) = .ok (.hrErrActual 0) ∧
  decode Params.default (.host 4 0x8000000400000000) = .ok (.hwStatus 0) ∧
  decode Params.default (.host 4 0x8000000C00000007) = .ok (.hwErrExpected 7) ∧
  decode Params.default (.host 4 0x8000001000000007) = .ok (.hwErrActual 7) ∧
  decode Params.default (.host 4 0x0000001400000000) = .ok (.hrRsvd14 0) ∧
  decode Params.default (.host 4 0x0000001800000000) = .ok (.hrRsvd18 0) ∧
  decode Params.default (.host 4 0x0000001C00000000) = .ok (.hrRsvd1C 0) ∧
  decode Params.default (.host 4 0x8000001412345678) = .ok (.hwRsvd14 0x12345678) ∧
  decode Params.default (.host 4 0x8000001800000005) = .ok (.hwRsvd18 5) ∧
  decode Params.default (.host 4 0x8000001C00000005) = .ok (.hwRsvd1C 5) ∧
  decode Params.default (.host 1 0xA000C01A00000000) = .ok (.hwIn 49178 0) ∧
  decode Params.default (.host 1 0xA000181B00000047) = .ok (.hwIn 6171 0x47) ∧
  decode Params.default (.host 1 0x2000001B00000000) = .ok (.hrIn 27 0) ∧
  decode Params.default (.host 1 0x40023FFD00000000) = .ok (.hrOut 147453 0) ∧
  decode Params.default (.host 1 0xC000000000000012) = .ok (.hwOut 0 0x12) ∧
  decode Params.default (.host 1 0x4002400000000000) = .error .outOffset ∧
  decode Params.default (.host 4 0x0000000200000000) = .error .regMisaligned ∧
  decode Params.default (.host 4 0x0000002000000000) = .error .regOffset

/-- R111: decoding the encoding of any well-formed operation gives it back, with every operand at every value. -/
def Obligations.DecodingInvertsEncoding : Prop :=
  ∀ (p : Params) (i : Instr), i.wellFormed p = true → decode p (encode i) = .ok i

/-- R111: a code that decodes is the encoding of what it decodes to, so no two codes mean the same operation, and no bit of a
word is dropped. -/
def Obligations.EncodingInvertsDecoding : Prop :=
  ∀ (p : Params) (c : Code) (i : Instr), decode p c = .ok i → encode i = c ∧ i.wellFormed p = true

/-! ### Whole decodes -/

/-- R172, R177, R88: while a decode scans, every pixel produced so far holds its frame bytes; every step keeps this,
whatever host accesses come between the engine's steps. -/
def Obligations.ScanProgressKeptByEveryStep : Prop :=
  ∀ s t : State, scanProgress s → step s = .next t → scanProgress t

/-- R82, R174, R255: the step that sets DONE leaves OUT equal to Frame(IN), all 147456 bytes, with BUSY = 0. -/
def Obligations.DoneMeansWholeFrameWritten : Prop :=
  ∀ s t : State, scanProgress s → step s = .next t → s.done = false → t.done = true →
    outIsFrame t ∧ busy t = false

/-- R254, R176: a decode whose LEN_LATCH is 49179, run by the engine alone from its size check, ends after exactly 49153 engine
steps with DONE = 1 and BUSY = 0 and OUT equal to Frame(IN), whatever IN holds; after 49152 it is still busy. -/
def Obligations.FullDecodeProducesFrame : Prop :=
  ∀ s : State, s.params.wellFormed = true → s.schedule = [] → s.phase = .check → s.lenLatch.toNat = 49179 →
    s.seq = { cellRow := 0, cellCol := 0, pixY := 0, bitIdx := 0 } →
    (∃ u, Host.Core.run Sys2Proof.core 49152 s = .next u ∧ busy u = true) ∧
    ∃ t : State, Host.Core.run Sys2Proof.core 49153 s = .next t ∧ busy t = false ∧ t.done = true ∧ t.err = s.err ∧
      (∀ a, readIn t a = readIn s a) ∧ (∀ off < 147456, readOut t off = frameByte s off) ∧
      t = { s with outMem := t.outMem, phase := .idle, done := true, seq := t.seq }

/-- R254, R284, R285: with IN_LEN not 49179, a START from BUSY = 0 and one engine step end in ERR = 1 with STATUS 0x00000014 and
the length in ERR_ACTUAL, OUT as it was; another START and engine step end the same way. -/
def Obligations.MismatchedDecodeEndsInOneEngineStep : Prop :=
  ∀ (s : State) (d : Word) (es : List Event), s.params.wellFormed = true → busy s = false → s.inLen.toNat ≠ 49179 →
    d.getLsbD 0 = true → s.schedule = .host 4 (haw true 0 0x00 d) :: .engine :: es →
    ∃ t : State, Host.Core.run Sys2Proof.core 2 s = .next t ∧ busy t = false ∧ statusWord t = 0x00000014 ∧
      t.errActual = s.inLen ∧ t.inLen = s.inLen ∧ t.schedule = es ∧ (∀ a, readOut t a = readOut s a) ∧
      (∀ a, readIn t a = readIn s a) ∧
      ∃ u : State, Host.Core.run Sys2Proof.core 2 { t with schedule := .host 4 (haw true 0 0x00 d) :: .engine :: es } = .next u ∧
        u = t
end

