-- ==== Sys2Proof/Laws/Decode.lean ====
section
/-! SUPPORT. The fields of an encoded Host Access Word, and of its DATA. -/

namespace Sys2Proof

@[simp] theorem hawW_haw (w : Bool) (s : BitVec 2) (off : BitVec 29) (d : Word) : hawW (haw w s off d) = w := by
  simp only [hawW, haw, BitVec.getLsbD_cast, BitVec.getLsbD_append]
  simp

@[simp] theorem hawS_haw (w : Bool) (s : BitVec 2) (off : BitVec 29) (d : Word) : hawS (haw w s off d) = s := by
  apply BitVec.eq_of_getLsbD_eq
  intro i hi
  simp only [hawS, haw, BitVec.getLsbD_extractLsb', BitVec.getLsbD_cast, BitVec.getLsbD_append]
  have h1 : ¬ 61 + i < 32 := by omega
  have h2 : ¬ 61 + i - 32 < 29 := by omega
  have h3 : 61 + i - 32 - 29 < 2 := by omega
  have h4 : 61 + i - 32 - 29 = i := by omega
  simp [hi, h1, h2, h4]

@[simp] theorem hawOff_haw (w : Bool) (s : BitVec 2) (off : BitVec 29) (d : Word) : hawOff (haw w s off d) = off := by
  apply BitVec.eq_of_getLsbD_eq
  intro i hi
  simp only [hawOff, haw, BitVec.getLsbD_extractLsb', BitVec.getLsbD_cast, BitVec.getLsbD_append]
  have h1 : ¬ 32 + i < 32 := by omega
  have h4 : 32 + i - 32 = i := by omega
  simp [hi, h4]

@[simp] theorem hawData_haw (w : Bool) (s : BitVec 2) (off : BitVec 29) (d : Word) : hawData (haw w s off d) = d := by
  apply BitVec.eq_of_getLsbD_eq
  intro i hi
  simp only [hawData, haw, BitVec.getLsbD_extractLsb', BitVec.getLsbD_cast, BitVec.getLsbD_append]
  simp [hi]

/-- A Host Access Word is its four fields. -/
theorem haw_fields (w : Haw) : haw (hawW w) (hawS w) (hawOff w) (hawData w) = w := by
  apply BitVec.eq_of_getLsbD_eq
  intro i hi
  simp only [haw, hawW, hawS, hawOff, hawData, BitVec.getLsbD_cast, BitVec.getLsbD_append, BitVec.getLsbD_extractLsb']
  by_cases h1 : i < 32
  · simp [h1]
  · by_cases h2 : i - 32 < 29
    · simp only [h1, h2, if_true, if_false, decide_true, Bool.true_and]
      congr 1; omega
    · by_cases h3 : i - 32 - 29 < 2
      · simp only [h1, h2, h3, if_true, if_false, decide_true, Bool.true_and]
        congr 1; omega
      · have h4 : i = 63 := by omega
        subst h4; simp

/-- A space selector is one of the four. -/
theorem space_cases (s : BitVec 2) : s = 0 ∨ s = 1 ∨ s = 2 ∨ s = 3 := by
  revert s; decide

@[simp] theorem dataHi_append (hi : BitVec 31) (b : BitVec 1) : dataHi ((hi ++ b).cast (by decide)) = hi := by
  apply BitVec.eq_of_getLsbD_eq
  intro i h
  simp only [dataHi, BitVec.getLsbD_extractLsb', BitVec.getLsbD_cast, BitVec.getLsbD_append]
  have h1 : ¬ 1 + i < 1 := by omega
  have h2 : 1 + i - 1 = i := by omega
  simp [h, h2]

@[simp] theorem dataBit0_append (hi : BitVec 31) (b : BitVec 1) :
    ((hi ++ b).cast (by decide : 31 + 1 = 32)).getLsbD 0 = b.getLsbD 0 := by
  simp only [BitVec.getLsbD_cast, BitVec.getLsbD_append]
  simp

/-- DATA is its high 31 bits and bit 0. -/
theorem data_fields (d : Word) : (dataHi d ++ BitVec.ofBool (d.getLsbD 0)).cast (by decide) = d := by
  apply BitVec.eq_of_getLsbD_eq
  intro i hi
  simp only [dataHi, BitVec.getLsbD_extractLsb', BitVec.getLsbD_cast, BitVec.getLsbD_append]
  by_cases h : i < 1
  · have : i = 0 := by omega
    subst this; simp
  · have h1 : i - 1 < 31 := by omega
    have h2 : 1 + (i - 1) = i := by omega
    simp [h, h1, h2]

/-- A REG access of 4 bytes decodes by its W, its offset and its DATA. -/
theorem decode_regCode (p : Params) (w : Bool) (off : BitVec 29) (d : Word) :
    decode p (regCode w off d) = decodeReg w off.toNat d := by
  simp [regCode, decode, decodeHost, accessBytes]

end Sys2Proof
end

