-- ==== Sys2Proof/Laws/State.lean ====
section
/-! SUPPORT. One lemma per field per state update. -/

namespace Sys2Proof.Machine

/-! ### MemWrite(IN, off, 1, v) -/

@[simp] theorem writeIn_params (s : State) (off : Nat) (v : Byte) : (writeIn s off v).params = s.params := rfl
@[simp] theorem writeIn_inMem (s : State) (off : Nat) (v : Byte) : (writeIn s off v).inMem = s.inMem.write off v := rfl
@[simp] theorem writeIn_outMem (s : State) (off : Nat) (v : Byte) : (writeIn s off v).outMem = s.outMem := rfl
@[simp] theorem writeIn_done (s : State) (off : Nat) (v : Byte) : (writeIn s off v).done = s.done := rfl
@[simp] theorem writeIn_err (s : State) (off : Nat) (v : Byte) : (writeIn s off v).err = s.err := rfl
@[simp] theorem writeIn_cause (s : State) (off : Nat) (v : Byte) : (writeIn s off v).cause = s.cause := rfl
@[simp] theorem writeIn_inLen (s : State) (off : Nat) (v : Byte) : (writeIn s off v).inLen = s.inLen := rfl
@[simp] theorem writeIn_errActual (s : State) (off : Nat) (v : Byte) : (writeIn s off v).errActual = s.errActual := rfl
@[simp] theorem writeIn_phase (s : State) (off : Nat) (v : Byte) : (writeIn s off v).phase = s.phase := rfl
@[simp] theorem writeIn_lenLatch (s : State) (off : Nat) (v : Byte) : (writeIn s off v).lenLatch = s.lenLatch := rfl
@[simp] theorem writeIn_seq (s : State) (off : Nat) (v : Byte) : (writeIn s off v).seq = s.seq := rfl
@[simp] theorem writeIn_schedule (s : State) (off : Nat) (v : Byte) : (writeIn s off v).schedule = s.schedule := rfl
@[simp] theorem writeIn_result (s : State) (off : Nat) (v : Byte) : (writeIn s off v).result = s.result := rfl
@[simp] theorem writeIn_draws (s : State) (off : Nat) (v : Byte) : (writeIn s off v).draws = s.draws := rfl
@[simp] theorem writeIn_resets (s : State) (off : Nat) (v : Byte) : (writeIn s off v).resets = s.resets := rfl

/-! ### MemWrite(OUT, off, 1, v) -/

@[simp] theorem writeOut_params (s : State) (off : Nat) (v : Byte) : (writeOut s off v).params = s.params := rfl
@[simp] theorem writeOut_inMem (s : State) (off : Nat) (v : Byte) : (writeOut s off v).inMem = s.inMem := rfl
@[simp] theorem writeOut_outMem (s : State) (off : Nat) (v : Byte) : (writeOut s off v).outMem = s.outMem.write off v := rfl
@[simp] theorem writeOut_done (s : State) (off : Nat) (v : Byte) : (writeOut s off v).done = s.done := rfl
@[simp] theorem writeOut_err (s : State) (off : Nat) (v : Byte) : (writeOut s off v).err = s.err := rfl
@[simp] theorem writeOut_cause (s : State) (off : Nat) (v : Byte) : (writeOut s off v).cause = s.cause := rfl
@[simp] theorem writeOut_inLen (s : State) (off : Nat) (v : Byte) : (writeOut s off v).inLen = s.inLen := rfl
@[simp] theorem writeOut_errActual (s : State) (off : Nat) (v : Byte) : (writeOut s off v).errActual = s.errActual := rfl
@[simp] theorem writeOut_phase (s : State) (off : Nat) (v : Byte) : (writeOut s off v).phase = s.phase := rfl
@[simp] theorem writeOut_lenLatch (s : State) (off : Nat) (v : Byte) : (writeOut s off v).lenLatch = s.lenLatch := rfl
@[simp] theorem writeOut_seq (s : State) (off : Nat) (v : Byte) : (writeOut s off v).seq = s.seq := rfl
@[simp] theorem writeOut_schedule (s : State) (off : Nat) (v : Byte) : (writeOut s off v).schedule = s.schedule := rfl
@[simp] theorem writeOut_result (s : State) (off : Nat) (v : Byte) : (writeOut s off v).result = s.result := rfl
@[simp] theorem writeOut_draws (s : State) (off : Nat) (v : Byte) : (writeOut s off v).draws = s.draws := rfl
@[simp] theorem writeOut_resets (s : State) (off : Nat) (v : Byte) : (writeOut s off v).resets = s.resets := rfl

/-! ### a taken START -/

@[simp] theorem startDecode_params (s : State) : (startDecode s).params = s.params := rfl
@[simp] theorem startDecode_inMem (s : State) : (startDecode s).inMem = s.inMem := rfl
@[simp] theorem startDecode_outMem (s : State) : (startDecode s).outMem = s.outMem := rfl
@[simp] theorem startDecode_done (s : State) : (startDecode s).done = false := rfl
@[simp] theorem startDecode_err (s : State) : (startDecode s).err = false := rfl
@[simp] theorem startDecode_cause (s : State) : (startDecode s).cause = .none := rfl
@[simp] theorem startDecode_inLen (s : State) : (startDecode s).inLen = s.inLen := rfl
@[simp] theorem startDecode_errActual (s : State) : (startDecode s).errActual = 0 := rfl
@[simp] theorem startDecode_phase (s : State) : (startDecode s).phase = .check := rfl
@[simp] theorem startDecode_lenLatch (s : State) : (startDecode s).lenLatch = s.inLen := rfl
@[simp] theorem startDecode_seq (s : State) : (startDecode s).seq = Seq.first := rfl
@[simp] theorem startDecode_schedule (s : State) : (startDecode s).schedule = s.schedule := rfl
@[simp] theorem startDecode_result (s : State) : (startDecode s).result = s.result := rfl
@[simp] theorem startDecode_draws (s : State) : (startDecode s).draws = s.draws := rfl
@[simp] theorem startDecode_resets (s : State) : (startDecode s).resets = s.resets := rfl

/-! ### the end of a scan -/

@[simp] theorem finishScan_params (s : State) : (finishScan s).params = s.params := rfl
@[simp] theorem finishScan_inMem (s : State) : (finishScan s).inMem = s.inMem := rfl
@[simp] theorem finishScan_outMem (s : State) : (finishScan s).outMem = s.outMem := rfl
@[simp] theorem finishScan_done (s : State) : (finishScan s).done = true := rfl
@[simp] theorem finishScan_err (s : State) : (finishScan s).err = s.err := rfl
@[simp] theorem finishScan_cause (s : State) : (finishScan s).cause = s.cause := rfl
@[simp] theorem finishScan_inLen (s : State) : (finishScan s).inLen = s.inLen := rfl
@[simp] theorem finishScan_errActual (s : State) : (finishScan s).errActual = s.errActual := rfl
@[simp] theorem finishScan_phase (s : State) : (finishScan s).phase = .idle := rfl
@[simp] theorem finishScan_lenLatch (s : State) : (finishScan s).lenLatch = s.lenLatch := rfl
@[simp] theorem finishScan_seq (s : State) : (finishScan s).seq = s.seq := rfl
@[simp] theorem finishScan_schedule (s : State) : (finishScan s).schedule = s.schedule := rfl
@[simp] theorem finishScan_result (s : State) : (finishScan s).result = s.result := rfl
@[simp] theorem finishScan_draws (s : State) : (finishScan s).draws = s.draws := rfl
@[simp] theorem finishScan_resets (s : State) : (finishScan s).resets = s.resets := rfl

/-! ### error entry -/

@[simp] theorem raiseSizeMismatch_params (s : State) (actual : Word) : (raiseSizeMismatch s actual).params = s.params := rfl
@[simp] theorem raiseSizeMismatch_inMem (s : State) (actual : Word) : (raiseSizeMismatch s actual).inMem = s.inMem := rfl
@[simp] theorem raiseSizeMismatch_outMem (s : State) (actual : Word) : (raiseSizeMismatch s actual).outMem = s.outMem := rfl
@[simp] theorem raiseSizeMismatch_done (s : State) (actual : Word) : (raiseSizeMismatch s actual).done = s.done := rfl
@[simp] theorem raiseSizeMismatch_err (s : State) (actual : Word) : (raiseSizeMismatch s actual).err = true := rfl
@[simp] theorem raiseSizeMismatch_cause (s : State) (actual : Word) : (raiseSizeMismatch s actual).cause = .sizeMismatch := rfl
@[simp] theorem raiseSizeMismatch_inLen (s : State) (actual : Word) : (raiseSizeMismatch s actual).inLen = s.inLen := rfl
@[simp] theorem raiseSizeMismatch_errActual (s : State) (actual : Word) : (raiseSizeMismatch s actual).errActual = actual := rfl
@[simp] theorem raiseSizeMismatch_phase (s : State) (actual : Word) : (raiseSizeMismatch s actual).phase = .idle := rfl
@[simp] theorem raiseSizeMismatch_lenLatch (s : State) (actual : Word) : (raiseSizeMismatch s actual).lenLatch = s.lenLatch := rfl
@[simp] theorem raiseSizeMismatch_seq (s : State) (actual : Word) : (raiseSizeMismatch s actual).seq = s.seq := rfl
@[simp] theorem raiseSizeMismatch_schedule (s : State) (actual : Word) : (raiseSizeMismatch s actual).schedule = s.schedule := rfl
@[simp] theorem raiseSizeMismatch_result (s : State) (actual : Word) : (raiseSizeMismatch s actual).result = s.result := rfl
@[simp] theorem raiseSizeMismatch_draws (s : State) (actual : Word) : (raiseSizeMismatch s actual).draws = s.draws := rfl
@[simp] theorem raiseSizeMismatch_resets (s : State) (actual : Word) : (raiseSizeMismatch s actual).resets = s.resets := rfl

/-! ### PWRITE, which changes OUT alone -/

@[simp] theorem pwrite_params (s : State) (x y : Nat) (c : Rgb) : (pwrite s x y c).params = s.params := rfl
@[simp] theorem pwrite_inMem (s : State) (x y : Nat) (c : Rgb) : (pwrite s x y c).inMem = s.inMem := rfl
@[simp] theorem pwrite_done (s : State) (x y : Nat) (c : Rgb) : (pwrite s x y c).done = s.done := rfl
@[simp] theorem pwrite_err (s : State) (x y : Nat) (c : Rgb) : (pwrite s x y c).err = s.err := rfl
@[simp] theorem pwrite_cause (s : State) (x y : Nat) (c : Rgb) : (pwrite s x y c).cause = s.cause := rfl
@[simp] theorem pwrite_inLen (s : State) (x y : Nat) (c : Rgb) : (pwrite s x y c).inLen = s.inLen := rfl
@[simp] theorem pwrite_errActual (s : State) (x y : Nat) (c : Rgb) : (pwrite s x y c).errActual = s.errActual := rfl
@[simp] theorem pwrite_phase (s : State) (x y : Nat) (c : Rgb) : (pwrite s x y c).phase = s.phase := rfl
@[simp] theorem pwrite_lenLatch (s : State) (x y : Nat) (c : Rgb) : (pwrite s x y c).lenLatch = s.lenLatch := rfl
@[simp] theorem pwrite_seq (s : State) (x y : Nat) (c : Rgb) : (pwrite s x y c).seq = s.seq := rfl
@[simp] theorem pwrite_schedule (s : State) (x y : Nat) (c : Rgb) : (pwrite s x y c).schedule = s.schedule := rfl
@[simp] theorem pwrite_result (s : State) (x y : Nat) (c : Rgb) : (pwrite s x y c).result = s.result := rfl
@[simp] theorem pwrite_draws (s : State) (x y : Nat) (c : Rgb) : (pwrite s x y c).draws = s.draws := rfl
@[simp] theorem pwrite_resets (s : State) (x y : Nat) (c : Rgb) : (pwrite s x y c).resets = s.resets := rfl

/-! ### the pixel write of a scan step, which changes OUT alone -/

@[simp] theorem writePixel_params (s : State) : (writePixel s).params = s.params := rfl
@[simp] theorem writePixel_inMem (s : State) : (writePixel s).inMem = s.inMem := rfl
@[simp] theorem writePixel_done (s : State) : (writePixel s).done = s.done := rfl
@[simp] theorem writePixel_err (s : State) : (writePixel s).err = s.err := rfl
@[simp] theorem writePixel_cause (s : State) : (writePixel s).cause = s.cause := rfl
@[simp] theorem writePixel_inLen (s : State) : (writePixel s).inLen = s.inLen := rfl
@[simp] theorem writePixel_errActual (s : State) : (writePixel s).errActual = s.errActual := rfl
@[simp] theorem writePixel_phase (s : State) : (writePixel s).phase = s.phase := rfl
@[simp] theorem writePixel_lenLatch (s : State) : (writePixel s).lenLatch = s.lenLatch := rfl
@[simp] theorem writePixel_seq (s : State) : (writePixel s).seq = s.seq := rfl
@[simp] theorem writePixel_schedule (s : State) : (writePixel s).schedule = s.schedule := rfl
@[simp] theorem writePixel_result (s : State) : (writePixel s).result = s.result := rfl
@[simp] theorem writePixel_draws (s : State) : (writePixel s).draws = s.draws := rfl
@[simp] theorem writePixel_resets (s : State) : (writePixel s).resets = s.resets := rfl

/-! ### RESET -/

@[simp] theorem resetBlock_params (s : State) : (resetBlock s).params = s.params := rfl
@[simp] theorem resetBlock_inMem (s : State) : (resetBlock s).inMem = [] := rfl
@[simp] theorem resetBlock_outMem (s : State) : (resetBlock s).outMem = [] := rfl
@[simp] theorem resetBlock_done (s : State) : (resetBlock s).done = false := rfl
@[simp] theorem resetBlock_err (s : State) : (resetBlock s).err = false := rfl
@[simp] theorem resetBlock_cause (s : State) : (resetBlock s).cause = .none := rfl
@[simp] theorem resetBlock_inLen (s : State) : (resetBlock s).inLen = 0 := rfl
@[simp] theorem resetBlock_errActual (s : State) : (resetBlock s).errActual = 0 := rfl
@[simp] theorem resetBlock_phase (s : State) : (resetBlock s).phase = .idle := rfl
@[simp] theorem resetBlock_lenLatch (s : State) : (resetBlock s).lenLatch = 0 := rfl
@[simp] theorem resetBlock_seq (s : State) : (resetBlock s).seq = Seq.first := rfl
@[simp] theorem resetBlock_schedule (s : State) : (resetBlock s).schedule = s.schedule := rfl
@[simp] theorem resetBlock_result (s : State) : (resetBlock s).result = .nothing := rfl
@[simp] theorem resetBlock_draws (s : State) : (resetBlock s).draws = s.draws := rfl
@[simp] theorem resetBlock_resets (s : State) : (resetBlock s).resets = s.resets + 1 := rfl

end Sys2Proof.Machine
end

