-- ==== Sys2Proof/Laws/Memory.lean ====
section
/-! SUPPORT. The laws of memory: read after write, and every operation keeps the canonical form. -/

namespace Sys2Proof.Machine

@[simp] theorem Memory.get?_nil (a : Nat) : Memory.get? [] a = none := rfl

/-- Read after write: the written byte at its offset, every other offset as before. -/
theorem Memory.get?_write (m : Memory) (a b : Nat) (v : Byte) :
    (m.write a v).get? b = if b = a then some v else m.get? b := by
  induction m with
  | nil => simp [Memory.write, Memory.get?]
  | cons c m ih =>
    obtain ⟨k, w⟩ := c
    simp only [Memory.write]
    split
    · simp [Memory.get?]
    · split
      · rename_i h; subst h; by_cases hb : b = a <;> simp [Memory.get?, hb]
      · rename_i h1 h2
        simp only [Memory.get?, ih]
        by_cases hb : b = a
        · subst hb; simp [h2]
        · simp [hb]

theorem Memory.wfFrom_mono {cap lo lo' : Nat} (h : lo' ≤ lo) {m : Memory} (hm : m.wfFrom cap lo = true) :
    m.wfFrom cap lo' = true := by
  cases m with
  | nil => rfl
  | cons c m =>
    obtain ⟨k, w⟩ := c
    simp only [Memory.wfFrom, Bool.and_eq_true, decide_eq_true_eq] at hm ⊢
    exact ⟨⟨by omega, hm.1.2⟩, hm.2⟩

theorem Memory.wfFrom_write {cap a : Nat} (ha : a < cap) (v : Byte) {m : Memory} :
    ∀ {lo : Nat}, lo ≤ a → m.wfFrom cap lo = true → (m.write a v).wfFrom cap lo = true := by
  induction m with
  | nil => intro lo hlo _; simp [Memory.write, Memory.wfFrom, hlo, ha]
  | cons c m ih =>
    obtain ⟨k, w⟩ := c
    intro lo hlo hm
    have hm' := hm
    simp only [Memory.wfFrom, Bool.and_eq_true, decide_eq_true_eq] at hm
    simp only [Memory.write]
    split
    · simp only [Memory.wfFrom, Bool.and_eq_true, decide_eq_true_eq]
      exact ⟨⟨hlo, ha⟩, ⟨by omega, hm.1.2⟩, hm.2⟩
    · split
      · rename_i h; subst h
        simp only [Memory.wfFrom, Bool.and_eq_true, decide_eq_true_eq]
        exact ⟨⟨hlo, ha⟩, hm.2⟩
      · simp only [Memory.wfFrom, Bool.and_eq_true, decide_eq_true_eq]
        exact ⟨hm.1, ih (by omega) hm.2⟩

/-- A write inside the space keeps the canonical form. -/
theorem Memory.wf_write {cap a : Nat} (ha : a < cap) (v : Byte) {m : Memory} (hm : m.wf cap = true) :
    (m.write a v).wf cap = true :=
  Memory.wfFrom_write ha v (Nat.zero_le a) hm

/-- An empty memory is in canonical form. -/
@[simp] theorem Memory.wf_nil (cap : Nat) : Memory.wf cap [] = true := rfl

theorem Memory.get?_of_lt {cap : Nat} {m : Memory} : ∀ {lo a : Nat}, a < lo → m.wfFrom cap lo = true → m.get? a = none := by
  induction m with
  | nil => intros; rfl
  | cons c m ih =>
    obtain ⟨k, w⟩ := c
    intro lo a ha hm
    simp only [Memory.wfFrom, Bool.and_eq_true, decide_eq_true_eq] at hm
    have : a ≠ k := by omega
    simp only [Memory.get?, this, if_false]
    exact ih (by omega) hm.2

/-- Canonical memories with the same written bytes are the same data. -/
theorem Memory.ext_get? {cap : Nat} {m : Memory} : ∀ {n : Memory} {lo : Nat}, m.wfFrom cap lo = true → n.wfFrom cap lo = true →
    (∀ a, m.get? a = n.get? a) → m = n := by
  induction m with
  | nil =>
    intro n lo _ hn h
    cases n with
    | nil => rfl
    | cons d n => have := h d.1; simp [Memory.get?] at this
  | cons c m ih =>
    intro n lo hm hn h
    cases n with
    | nil => have := h c.1; simp [Memory.get?] at this
    | cons d n =>
      obtain ⟨k, w⟩ := c
      obtain ⟨l, x⟩ := d
      simp only [Memory.wfFrom, Bool.and_eq_true, decide_eq_true_eq] at hm hn
      have hkl : k = l := by
        rcases Nat.lt_trichotomy k l with hlt | heq | hgt
        · have h1 := h k
          have hne : k ≠ l := by omega
          rw [show Memory.get? ((l, x) :: n) k = Memory.get? n k by simp [Memory.get?, hne],
            Memory.get?_of_lt (by omega) hn.2] at h1
          simp [Memory.get?] at h1
        · exact heq
        · have h1 := h l
          have hne : l ≠ k := by omega
          rw [show Memory.get? ((k, w) :: m) l = Memory.get? m l by simp [Memory.get?, hne],
            Memory.get?_of_lt (by omega) hm.2] at h1
          simp [Memory.get?] at h1
      subst hkl
      have hw : w = x := by have := h k; simpa [Memory.get?] using this
      subst hw
      rw [ih hm.2 hn.2 fun a => ?_]
      by_cases ha : a = k
      · subst ha; rw [Memory.get?_of_lt (by omega) hm.2, Memory.get?_of_lt (by omega) hn.2]
      · have := h a; simpa [Memory.get?, ha] using this

/-! ### The region load of a table word (log 15) -/

theorem Memory.wfFrom_append {cap mid : Nat} (hc : mid ≤ cap) {m : Memory} :
    ∀ {lo : Nat} {n : Memory}, lo ≤ mid → m.wfFrom mid lo = true → n.wfFrom cap mid = true → (m ++ n).wfFrom cap lo = true := by
  induction m with
  | nil => intro lo n hl _ hn; exact Memory.wfFrom_mono hl hn
  | cons c m ih =>
    obtain ⟨k, w⟩ := c
    intro lo n hl hm hn
    simp only [List.cons_append, Memory.wfFrom, Bool.and_eq_true, decide_eq_true_eq] at hm ⊢
    exact ⟨⟨hm.1.1, by omega⟩, ih (by omega) hm.2 hn⟩

theorem Memory.wfFrom_filter_lt {cap k : Nat} {m : Memory} :
    ∀ {lo : Nat}, m.wfFrom cap lo = true → Memory.wfFrom k lo (m.filter fun c => decide (c.1 < k)) = true := by
  induction m with
  | nil => intro lo _; rfl
  | cons c m ih =>
    obtain ⟨b, w⟩ := c
    intro lo hm
    simp only [Memory.wfFrom, Bool.and_eq_true, decide_eq_true_eq] at hm
    by_cases hb : b < k
    · simp only [List.filter_cons, hb, decide_true, if_true, Memory.wfFrom, Bool.and_eq_true, decide_eq_true_eq]
      exact ⟨⟨hm.1.1, trivial⟩, ih hm.2⟩
    · simp only [List.filter_cons, hb, decide_false, Bool.false_eq_true, if_false]
      exact Memory.wfFrom_mono (by omega) (ih hm.2)

theorem Memory.wfFrom_filter_ge {cap k : Nat} {m : Memory} :
    ∀ {lo : Nat}, m.wfFrom cap lo = true → Memory.wfFrom cap (max lo k) (m.filter fun c => decide (k ≤ c.1)) = true := by
  induction m with
  | nil => intro lo _; rfl
  | cons c m ih =>
    obtain ⟨b, w⟩ := c
    intro lo hm
    simp only [Memory.wfFrom, Bool.and_eq_true, decide_eq_true_eq] at hm
    by_cases hb : k ≤ b
    · simp only [List.filter_cons, hb, decide_true, if_true, Memory.wfFrom, Bool.and_eq_true, decide_eq_true_eq]
      exact ⟨⟨by omega, hm.1.2⟩, Memory.wfFrom_mono (by omega) (ih hm.2)⟩
    · simp only [List.filter_cons, hb, decide_false, Bool.false_eq_true, if_false]
      exact Memory.wfFrom_mono (by omega) (ih hm.2)

theorem Memory.wfFrom_range (lo : Nat) (f : Nat → Byte) (n : Nat) :
    Memory.wfFrom (lo + n) lo ((List.range n).map fun i => (lo + i, f i)) = true := by
  induction n with
  | zero => rfl
  | succ n ih =>
    rw [List.range_succ, List.map_append]
    exact Memory.wfFrom_append (by omega) (by omega) ih (by simp [Memory.wfFrom])

/-- Replacing the region [27, 6939) keeps the canonical form. -/
theorem Memory.wf_loadRegion {cap : Nat} (hc : Config.usedEnd ≤ cap) (w : Nat) {m : Memory} (hm : m.wf cap = true) :
    (loadRegion m w).wf cap = true := by
  have h3 : Memory.wfFrom cap Config.usedEnd (m.filter fun c => decide (Config.usedEnd ≤ c.1)) = true :=
    Memory.wfFrom_mono (by omega) (Memory.wfFrom_filter_ge hm)
  have h2 : Memory.wfFrom cap Config.bitmapOff (regionCells w ++ m.filter fun c => decide (Config.usedEnd ≤ c.1)) = true :=
    Memory.wfFrom_append hc (by decide) (Memory.wfFrom_range Config.bitmapOff _ 6912) h3
  have h1 :
      Memory.wfFrom Config.bitmapOff 0 (m.filter fun c => decide (c.1 < Config.bitmapOff)) = true :=
    Memory.wfFrom_filter_lt hm
  simp only [loadRegion, List.append_assoc]
  exact Memory.wfFrom_append (by simp only [Config.usedEnd, Config.bitmapOff] at hc ⊢; omega) (by decide) h1 h2

end Sys2Proof.Machine
end

