-- ==== Sys2Proof/Laws/Ops.lean ====
section
/-! SUPPORT. One lemma per shared operation, saying all it can do: reads after writes, the pixel write, the choice of the next
transition, and the cases of one step. -/

namespace Sys2Proof.Machine

/-! ### Reads after writes -/

theorem readIn_writeIn (s : State) (a b : Nat) (v : Byte) : readIn (writeIn s a v) b = if b = a then v else readIn s b := by
  simp only [readIn, writeIn_inMem, Memory.get?_write, unlistedIn, writeIn_resets]
  split <;> rfl

theorem readOut_writeOut (s : State) (a b : Nat) (v : Byte) :
    readOut (writeOut s a v) b = if b = a then v else readOut s b := by
  simp only [readOut, writeOut_outMem, Memory.get?_write, unlistedOut, writeOut_resets]
  split <;> rfl

@[simp] theorem readOut_writeIn (s : State) (a b : Nat) (v : Byte) : readOut (writeIn s a v) b = readOut s b := rfl

@[simp] theorem readIn_writeOut (s : State) (a b : Nat) (v : Byte) : readIn (writeOut s a v) b = readIn s b := rfl

/-- A read of IN depends on the written bytes and the reset count alone. -/
theorem readIn_congr {s t : State} (hm : t.inMem = s.inMem) (hr : t.resets = s.resets) (a : Nat) : readIn t a = readIn s a := by
  simp [readIn, unlistedIn, hm, hr]

/-- A read of OUT depends on the written bytes and the reset count alone. -/
theorem readOut_congr {s t : State} (hm : t.outMem = s.outMem) (hr : t.resets = s.resets) (a : Nat) :
    readOut t a = readOut s a := by
  simp [readOut, unlistedOut, hm, hr]

/-- Frame(IN) depends on IN and DIM_LEVEL alone. -/
theorem frameByte_congr {s t : State} (hm : t.inMem = s.inMem) (hr : t.resets = s.resets) (hp : t.params = s.params) (a : Nat) :
    frameByte t a = frameByte s a := by
  simp [frameByte, framePixel, readIn, unlistedIn, hm, hr, hp]

/-! ### The pixel write -/

/-- PWRITE changes the three bytes of its pixel and no other byte of OUT (R251). -/
theorem readOut_pwrite (s : State) (x y : Nat) (c : Rgb) (a : Nat) :
    readOut (pwrite s x y c) a = if a / 3 = y * 256 + x then rgbChannel c (a % 3) else readOut s a := by
  have e : pixelBase x y = (y * 256 + x) * 3 := rfl
  simp only [pwrite, readOut_writeOut, e]
  generalize y * 256 + x = n
  by_cases h : a / 3 = n
  · have : a = n * 3 + a % 3 := by omega
    have h3 : a % 3 < 3 := Nat.mod_lt _ (by omega)
    rcases (by omega : a % 3 = 0 ∨ a % 3 = 1 ∨ a % 3 = 2) with h0 | h0 | h0
    · rw [if_neg (by omega), if_neg (by omega), if_pos (by omega), if_pos h, h0]; rfl
    · rw [if_neg (by omega), if_pos (by omega), if_pos h, h0]; rfl
    · rw [if_pos (by omega), if_pos h, h0]; rfl
  · rw [if_neg (by omega), if_neg (by omega), if_neg (by omega), if_neg h]

/-- PWRITE changes OUT alone. -/
theorem pwrite_eq (s : State) (x y : Nat) (c : Rgb) : pwrite s x y c = { s with outMem := (pwrite s x y c).outMem } := rfl

@[simp] theorem readIn_pwrite (s : State) (x y : Nat) (c : Rgb) (a : Nat) : readIn (pwrite s x y c) a = readIn s a := rfl

/-- PWRITE of a pixel inside the image keeps OUT in canonical form. -/
theorem wf_pwrite {s : State} {x y : Nat} (hx : x < 256) (hy : y < 192) (c : Rgb)
    (h : s.outMem.wf Config.outLen = true) : (pwrite s x y c).outMem.wf Config.outLen = true := by
  have e : pixelBase x y = (y * 256 + x) * 3 := rfl
  have hb : pixelBase x y + 2 < Config.outLen := by rw [e]; simp only [Config.outLen]; omega
  exact Memory.wf_write (by omega) _ (Memory.wf_write (by omega) _ (Memory.wf_write (by omega) _ h))

/-! ### The next transition -/

theorem fetch_cons {s : State} {e : Event} {es : List Event} (h : s.schedule = e :: es) :
    fetch s = some (e.code s.phase, { s with schedule := es }) := by simp [fetch, h]

theorem fetch_nil {s : State} (h : s.schedule = []) : fetch s = if busy s then some (.engine s.phase, s) else none := by
  simp [fetch, h]

/-- All that a step that answers a next state can do: the engine's step with nothing scheduled, or the head of the schedule,
decoded and run on the state without it. -/
theorem step_next {s t : State} (h : step s = .next t) :
    s.params.wellFormed = true ∧
      ∃ i, (s.schedule = [] ∧ busy s = true ∧ decode s.params (.engine s.phase) = .ok i ∧ exec i s = .next t) ∨
        (∃ e es, s.schedule = e :: es ∧ decode s.params (e.code s.phase) = .ok i ∧
          exec i { s with schedule := es } = .next t) := by
  unfold step at h
  split at h
  · rename_i hp
    refine ⟨hp, ?_⟩
    cases hs : s.schedule with
    | nil =>
      rw [fetch_nil hs] at h
      cases hb : busy s <;> simp only [hb, if_true, if_false, Bool.false_eq_true] at h
      · cases h
      · split at h
        · cases h
        · rename_i i hd; exact ⟨i, .inl ⟨rfl, rfl, hd, h⟩⟩
    | cons e es =>
      rw [fetch_cons hs] at h
      simp only at h
      split at h
      · cases h
      · rename_i i hd; exact ⟨i, .inr ⟨e, es, rfl, hd, h⟩⟩
  · cases h

/-- A datapath operation of the opcode table is placed as a pixel step, never as a step of its own (R13). -/
theorem placeStage_scans {s t : State} {i : Instr} (h : placeStage s i = some t) :
    t.phase = .scan ∧ t.schedule = .engine :: s.schedule := by
  cases i <;> simp only [placeStage, Option.map_eq_some_iff, Option.bind_eq_some_iff, Option.some.injEq, reduceCtorEq] at h
  case dim b c =>
    split at h
    · cases h; exact ⟨rfl, rfl⟩
    · cases h
  all_goals first
    | (subst h; exact ⟨rfl, rfl⟩)
    | (obtain ⟨_, _, rfl⟩ := h; exact ⟨rfl, rfl⟩)
    | (obtain ⟨_, _, _, _, rfl⟩ := h; exact ⟨rfl, rfl⟩)

end Sys2Proof.Machine
end

