-- ==== Sys2Proof/Laws/Sequencer.lean ====
section
/-! SUPPORT. The scan position: its coordinates, its number, its successor (R172, R173, R177). -/

namespace Sys2Proof.Machine

theorem Seq.x_lt (q : Seq) : q.x < 256 := by have := q.cellCol.isLt; have := q.bitIdx.isLt; simp only [Seq.x]; omega

theorem Seq.y_lt (q : Seq) : q.y < 192 := by have := q.cellRow.isLt; have := q.pixY.isLt; simp only [Seq.y]; omega

theorem Seq.index_lt (q : Seq) : q.index < 49152 := by
  have := q.cellRow.isLt; have := q.cellCol.isLt; have := q.pixY.isLt; have := q.bitIdx.isLt
  simp only [Seq.index]; omega

theorem Seq.x_shift (q : Seq) : q.x >>> 3 = q.cellCol.val := by
  have := q.bitIdx.isLt; simp only [Seq.x, Nat.shiftRight_eq_div_pow]; omega

theorem Seq.x_low (q : Seq) : q.x &&& 7 = q.bitIdx.val := by
  have h : q.x &&& 7 = q.x % 2 ^ 3 := Nat.and_two_pow_sub_one_eq_mod q.x 3
  have := q.bitIdx.isLt; rw [h]; simp only [Seq.x]; omega

theorem Seq.y_shift (q : Seq) : q.y >>> 3 = q.cellRow.val := by
  have := q.pixY.isLt; simp only [Seq.y, Nat.shiftRight_eq_div_pow]; omega

/-- A scan position is its four field values. -/
theorem Seq.ext_val {p q : Seq} (h1 : p.cellRow.val = q.cellRow.val) (h2 : p.cellCol.val = q.cellCol.val)
    (h3 : p.pixY.val = q.pixY.val) (h4 : p.bitIdx.val = q.bitIdx.val) : p = q := by
  cases p; cases q; simp only [Seq.mk.injEq]; exact ⟨Fin.ext h1, Fin.ext h2, Fin.ext h3, Fin.ext h4⟩

/-- Different positions have different numbers. -/
theorem Seq.index_injective {p q : Seq} (h : p.index = q.index) : p = q := by
  have := p.cellCol.isLt; have := p.pixY.isLt; have := p.bitIdx.isLt
  have := q.cellCol.isLt; have := q.pixY.isLt; have := q.bitIdx.isLt
  simp only [Seq.index] at h
  exact Seq.ext_val (by omega) (by omega) (by omega) (by omega)

/-- Different positions have different pixels. -/
theorem pixelNumber_injective {p q : Seq} (h : pixelNumber p = pixelNumber q) : p = q := by
  have := p.x_lt; have := q.x_lt
  have := p.cellCol.isLt; have := p.pixY.isLt; have := p.bitIdx.isLt
  have := q.cellCol.isLt; have := q.pixY.isLt; have := q.bitIdx.isLt
  simp only [pixelNumber] at h
  have hy : p.y = q.y := by omega
  have hx : p.x = q.x := by omega
  simp only [Seq.x, Seq.y] at hx hy
  exact Seq.ext_val (by omega) (by omega) (by omega) (by omega)

@[simp] theorem Seq.index_first : Seq.first.index = 0 := rfl

/-- The last position is the one with the last number. -/
theorem Seq.eq_last_iff (q : Seq) : q = Seq.last ↔ q.index = 49151 :=
  ⟨fun h => by rw [h]; rfl, fun h => Seq.index_injective (h.trans (by rfl))⟩

/-- SEQ_ADV adds 1 to the position's number (R173). -/
theorem index_seqAdv {q : Seq} (h : q ≠ Seq.last) : (seqAdv q).index = q.index + 1 := by
  have hi : q.index ≠ 49151 := fun e => h (q.eq_last_iff.mpr e)
  have := q.cellRow.isLt; have := q.cellCol.isLt; have := q.pixY.isLt; have := q.bitIdx.isLt
  unfold seqAdv
  simp only [Seq.index] at hi ⊢
  split
  · simp only; omega
  · split
    · simp only; omega
    · split
      · simp only; omega
      · split
        · simp only; omega
        · omega

/-- The number of a pixel is below 49152. -/
theorem pixelNumber_lt (q : Seq) : pixelNumber q < 49152 := by
  have := q.x_lt; have := q.y_lt; simp only [pixelNumber]; omega

/-- The position of pixel (x, y). -/
def Seq.ofPixel (x y : Nat) (hx : x < 256) (hy : y < 192) : Seq :=
  { cellRow := ⟨y / 8, by omega⟩, cellCol := ⟨x / 8, by omega⟩, pixY := ⟨y % 8, by omega⟩, bitIdx := ⟨x % 8, by omega⟩ }

@[simp] theorem Seq.x_ofPixel {x y : Nat} (hx : x < 256) (hy : y < 192) : (Seq.ofPixel x y hx hy).x = x := by
  simp only [Seq.x, Seq.ofPixel]; omega

@[simp] theorem Seq.y_ofPixel {x y : Nat} (hx : x < 256) (hy : y < 192) : (Seq.ofPixel x y hx hy).y = y := by
  simp only [Seq.y, Seq.ofPixel]; omega

/-- Every OUT offset is one channel of one position's pixel. -/
theorem exists_pixel_of_offset {off : Nat} (h : off < 147456) : ∃ q : Seq, ∃ c < 3, off = 3 * pixelNumber q + c :=
  ⟨Seq.ofPixel (off / 3 % 256) (off / 3 / 256) (by omega) (by omega), off % 3, by omega, by simp [pixelNumber]; omega⟩

end Sys2Proof.Machine
end

