-- ==== Sys2Proof/Laws/Frame.lean ====
section
/-! SUPPORT. The pixel step and the closed form of the image agree (R175, R252). -/

namespace Sys2Proof.Machine

/-- The triplet R175 computes at a scan position is Frame(IN) at its pixel (R252). -/
theorem pixelRgb_eq_framePixel (s : State) (q : Seq) : pixelRgb s q = framePixel s q.x q.y := by
  simp only [pixelRgb, framePixel, Seq.x_shift, Seq.x_low, Seq.y_shift, psel, bitx, attrFetch, bmpFetch, attrSplit, attrOffset,
    bmpOffset, Config.attrOff, Config.cols, Config.bitmapOff, Config.bytesPerScanline]
  rfl

/-- The frame bytes of a position's pixel are the triplet of R175. -/
theorem frameByte_pixel (s : State) (q : Seq) {c : Nat} (hc : c < 3) :
    frameByte s (3 * pixelNumber q + c) = rgbChannel (pixelRgb s q) c := by
  have hx := q.x_lt
  have h1 : (3 * pixelNumber q + c) / 3 = pixelNumber q := by omega
  have h2 : (3 * pixelNumber q + c) % 3 = c := by omega
  have h3 : pixelNumber q % 256 = q.x := by simp only [pixelNumber]; omega
  have h4 : pixelNumber q / 256 = q.y := by simp only [pixelNumber]; omega
  simp only [frameByte, h1, h2, h3, h4, pixelRgb_eq_framePixel]

/-- One scan step's pixel write, byte by byte. -/
theorem readOut_writePixel (s : State) (off : Nat) :
    readOut (writePixel s) off = if off / 3 = pixelNumber s.seq then frameByte s off else readOut s off := by
  simp only [writePixel, readOut_pwrite]
  by_cases h : off / 3 = s.seq.y * 256 + s.seq.x
  · have ho : off = 3 * pixelNumber s.seq + off % 3 := by simp only [pixelNumber]; omega
    rw [if_pos h, if_pos (by simpa [pixelNumber] using h)]
    conv_rhs => rw [ho]
    rw [frameByte_pixel s s.seq (Nat.mod_lt _ (by omega))]
  · rw [if_neg h, if_neg (by simpa [pixelNumber] using h)]

/-- One scan step's pixel write changes OUT alone. -/
theorem writePixel_eq (s : State) : writePixel s = { s with outMem := (writePixel s).outMem } := rfl

/-- One scan step's pixel write keeps OUT in canonical form. -/
theorem wf_writePixel {s : State} (h : s.outMem.wf Config.outLen = true) : (writePixel s).outMem.wf Config.outLen = true :=
  wf_pwrite s.seq.x_lt s.seq.y_lt _ h

set_option maxRecDepth 8192 in
/-- VROW maps each screen row below 192 to a scanline below 192 (R221). -/
theorem vrow_lt {y : Nat} (h : y < 192) : (vrow (BitVec.ofNat 8 y)).toNat < 192 := by
  have key : ∀ z : Fin 192, (vrow (BitVec.ofNat 8 z.val)).toNat < 192 := by decide
  exact key ⟨y, h⟩

/-- The closed form reads IN inside [27, 6939) alone (R88, R72). -/
theorem framePixel_congr {s t : State} (hp : t.params.dimLevel = s.params.dimLevel)
    (h : ∀ a, 27 ≤ a → a < 6939 → readIn t a = readIn s a) {x y : Nat} (hx : x < 256) (hy : y < 192) :
    framePixel t x y = framePixel s x y := by
  have hv := vrow_lt hy
  have hx3 : x >>> 3 < 32 := by simp only [Nat.shiftRight_eq_div_pow]; omega
  have hy3 : y >>> 3 < 24 := by simp only [Nat.shiftRight_eq_div_pow]; omega
  simp only [framePixel, hp]
  rw [h (6171 + y >>> 3 * 32 + x >>> 3) (by omega) (by omega),
    h (27 + (vrow (BitVec.ofNat 8 y)).toNat * 32 + x >>> 3) (by omega) (by omega)]

end Sys2Proof.Machine
end

