-- ==== Sys2Proof/Laws/Exec.lean ====
section
/-! SUPPORT. All that an operation can do when it completes, said once. -/

namespace Sys2Proof.Machine

/-- The nine things that a completed operation does: return a value, start a decode, write IN_LEN or an IN byte (each with
BUSY = 0), pass or fail the size check, produce a pixel, reset the block, or write a triplet. -/
theorem exec_next {i : Instr} {s t : State} (h : exec i s = .next t) :
    (∃ r d, t = { s with result := r, draws := d }) ∨
    (∃ hi, i = .hwStart hi ∧ busy s = false ∧ t = startDecode s) ∨
    (∃ d, i = .hwInLen d ∧ busy s = false ∧ t = { s with inLen := d }) ∨
    (∃ off d, i = .hwIn off d ∧ off.toNat < s.params.inCap ∧ busy s = false ∧ t = writeIn s off.toNat (dataByte d)) ∨
    (i = .eSizechk ∧ s.phase = .check ∧ s.lenLatch = Config.snapshotLenWord ∧ t = { s with phase := .scan }) ∨
    (i = .eSizechk ∧ s.phase = .check ∧ s.lenLatch ≠ Config.snapshotLenWord ∧ t = raiseSizeMismatch s s.lenLatch) ∨
    (i = .ePixel ∧ s.phase = .scan ∧ t = advanceScan (writePixel s)) ∨
    (i = .reset ∧ t = resetBlock s) ∨
    (∃ y x c, i = .pwrite y x c ∧ y.toNat < Config.height ∧ t = pwrite s x.toNat y.toNat c) := by
  cases i with
  | hwStart hi =>
    simp only [exec, execHwStart] at h
    cases hb : busy s <;> simp only [hb, if_true, if_false, Bool.false_eq_true] at h <;> cases h
    · exact .inr (.inl ⟨hi, rfl, rfl, rfl⟩)
    · exact .inl ⟨_, _, rfl⟩
  | hwInLen d =>
    simp only [exec, execHwInLen] at h
    cases hb : busy s <;> simp only [hb, if_true, if_false, Bool.false_eq_true] at h <;> cases h
    · exact .inr (.inr (.inl ⟨d, rfl, rfl, rfl⟩))
    · exact .inl ⟨_, _, rfl⟩
  | hwIn off d =>
    simp only [exec, execHwIn] at h
    split at h
    · rename_i ho
      cases hb : busy s <;> simp only [hb, if_true, if_false, Bool.false_eq_true] at h <;> cases h
      · exact .inr (.inr (.inr (.inl ⟨off, d, rfl, ho, rfl, rfl⟩)))
      · exact .inl ⟨_, _, rfl⟩
    · cases h
  | eSizechk =>
    simp only [exec, execESizechk] at h
    split at h
    · rename_i hp
      split at h <;> cases h
      · rename_i hl; exact .inr (.inr (.inr (.inr (.inl ⟨rfl, hp, hl, rfl⟩))))
      · rename_i hl; exact .inr (.inr (.inr (.inr (.inr (.inl ⟨rfl, hp, hl, rfl⟩)))))
    · cases h
    · cases h
  | ePixel =>
    simp only [exec, execEPixel] at h
    split at h
    · rename_i hp; cases h; exact .inr (.inr (.inr (.inr (.inr (.inr (.inl ⟨rfl, hp, rfl⟩))))))
    · cases h
    · cases h
  | reset => cases h; exact .inr (.inr (.inr (.inr (.inr (.inr (.inr (.inl ⟨rfl, rfl⟩)))))))
  | pwrite y x c =>
    simp only [exec, execPwrite] at h
    split at h
    · rename_i hy; cases h; exact .inr (.inr (.inr (.inr (.inr (.inr (.inr (.inr ⟨y, x, c, rfl, hy, rfl⟩)))))))
    · cases h
  | hrIn off d => simp only [exec, execHrIn] at h; split at h <;> cases h; exact .inl ⟨_, _, rfl⟩
  | hrOut off d =>
    simp only [exec, execHrOut] at h
    split at h
    · split at h <;> cases h <;> exact .inl ⟨_, _, rfl⟩
    · cases h
  | hwOut off d => simp only [exec, execHwOut] at h; split at h <;> cases h; exact .inl ⟨_, _, rfl⟩
  | attrFetch cr cc => simp only [exec, execAttrFetch] at h; split at h <;> cases h; exact .inl ⟨_, _, rfl⟩
  | bmpFetch pr cc => simp only [exec, execBmpFetch] at h; split at h <;> cases h; exact .inl ⟨_, _, rfl⟩
  | seqAdv cr cc py k =>
    simp only [exec, execSeqAdv] at h
    split at h
    · split at h <;> cases h; exact .inl ⟨_, _, rfl⟩
    · cases h
  | hwCtrl0 _ | hrCtrl _ | hrStatus _ | hrInLen _ | hrErrExpected _ | hrErrActual _ | hwStatus _ | hwErrExpected _
  | hwErrActual _ | hrRsvd14 _ | hrRsvd18 _ | hrRsvd1C _ | hwRsvd14 _ | hwRsvd18 _ | hwRsvd1C _ | attrSplit _ | cexp _
  | dim _ _ | clut _ _ | vrow _ | bitx _ _ | psel _ _ _ | frame => cases h; exact .inl ⟨_, _, rfl⟩

/-- The end of a scan step: SEQ, PHASE and DONE change, nothing else. -/
theorem advanceScan_cases (s : State) :
    (s.seq = Seq.last ∧ advanceScan s = finishScan s) ∨ (s.seq ≠ Seq.last ∧ advanceScan s = { s with seq := seqAdv s.seq }) := by
  unfold advanceScan
  split
  · rename_i h; exact .inl ⟨h, rfl⟩
  · rename_i h; exact .inr ⟨h, rfl⟩

/-- A run of the machine is one step and the rest. -/
theorem core_run_succ (k : Nat) (s : State) :
    Host.Core.run Sys2Proof.core (k + 1) s =
      match step s with
      | .next t => Host.Core.run Sys2Proof.core k t
      | .fault r => .fault r
      | .refused r => .refused r := by
  have e : Sys2Proof.core.step s = step s := rfl
  show Host.Core.run Sys2Proof.core (Nat.succ k) s = _
  simp only [Host.Core.run, e]
  cases step s <;> rfl

end Sys2Proof.Machine
end

