-- ==== Sys2Proof/Laws/PerInstr.lean ====
section
/-! SUPPORT. The family TableRow: the encoding of each operation lies in its row of spec/opcode_table.json. -/

namespace Sys2Proof.Laws

/-- The operation encodes to a host access of `bytes` bytes whose word has the bits `pat` under `mask`. -/
def InHostRow (i : Instr) (bytes : Nat) (mask pat : Haw) : Prop := ∃ w : Haw, encode i = .host bytes w ∧ w &&& mask = pat

/-- The operation encodes to the datapath operation `op`, with no operand bit above the row's format. -/
def InStageRow (i : Instr) (op : Stage) (bits : Nat) : Prop := ∃ w : BitVec 64, encode i = .stage op w ∧ w.toNat < 2 ^ bits

/-- An access word under a mask, its fixed half and its DATA half apart. -/
theorem haw_and (w : Bool) (s : BitVec 2) (off : BitVec 29) (d dm : Word) (hm : BitVec 32) :
    haw w s off d &&& (hm ++ dm) = ((BitVec.ofBool w ++ s ++ off).cast (by decide) &&& hm) ++ (d &&& dm) := by
  rw [← BitVec.and_append]; rfl

/-- A REG word under R111's mask for a row that leaves DATA free. -/
theorem regCode_row (w : Bool) (off : BitVec 29) (d : Word) (pat : Haw)
    (h : pat = ((BitVec.ofBool w ++ 0#2 ++ off).cast (by decide) : BitVec 32) ++ 0#32) :
    ∃ v : Haw, regCode w off d = .host 4 v ∧ v &&& 0xFFFFFFFF00000000 = pat := by
  refine ⟨_, rfl, ?_⟩
  have e := haw_and w 0 off d 0#32 (BitVec.allOnes 32)
  rw [show (0xFFFFFFFF00000000 : Haw) = BitVec.allOnes 32 ++ 0#32 from by decide, e, h, BitVec.and_allOnes, BitVec.and_zero]
  rfl

/-- A CTRL write's word under R111's mask, which fixes DATA[0] too. -/
theorem ctrlCode_row (hi : BitVec 31) (b : BitVec 1) (pat : Haw)
    (h : pat = (0x80000000#32) ++ b.setWidth 32) :
    ∃ v : Haw, regCode true 0x00 ((hi ++ b).cast (by decide)) = .host 4 v ∧ v &&& 0xFFFFFFFF00000001 = pat := by
  refine ⟨_, rfl, ?_⟩
  have e := haw_and true 0 0x00 ((hi ++ b).cast (by decide)) 1 (BitVec.allOnes 32)
  have e2 : (((hi ++ b).cast (by decide) : Word) &&& 1) = b.setWidth 32 := by
    rw [show (1 : Word) = ((0#31 ++ 1#1).cast (by decide) : Word) from by decide]
    apply BitVec.eq_of_getLsbD_eq
    intro i hi'
    simp only [BitVec.getLsbD_and, BitVec.getLsbD_cast, BitVec.getLsbD_append, BitVec.getLsbD_setWidth]
    by_cases h0 : i < 1
    · have : i = 0 := by omega
      subst this; simp
    · have : b.getLsbD i = false := BitVec.getLsbD_of_ge b i (by omega)
      simp [h0, this]
  rw [show (0xFFFFFFFF00000001 : Haw) = BitVec.allOnes 32 ++ (1 : Word) from by decide, e, e2, h]
  congr 1

/-- An IN or OUT word under R111's mask, which fixes W and S. -/
theorem window_row (w : Bool) (s : BitVec 2) (off : BitVec 29) (d : Word) (pat : Haw)
    (h : pat = ((BitVec.ofBool w ++ s ++ 0#29).cast (by decide) : BitVec 32) ++ 0#32) :
    haw w s off d &&& 0xE000000000000000 = pat := by
  have e := haw_and w s off d 0#32 0xE0000000
  have e2 : ((BitVec.ofBool w ++ s ++ off).cast (by decide) : BitVec 32) &&& 0xE0000000
      = (BitVec.ofBool w ++ s ++ 0#29).cast (by decide) := by
    have e3 : (BitVec.ofBool w ++ s ++ off) &&& (BitVec.allOnes (1 + 2) ++ 0#29) = BitVec.ofBool w ++ s ++ 0#29 := by
      rw [BitVec.and_append, BitVec.and_allOnes, BitVec.and_zero]
    exact e3
  rw [show (0xE000000000000000 : Haw) = (0xE0000000 : BitVec 32) ++ 0#32 from by decide, e, h, e2, BitVec.and_zero]

/-- The row of spec/opcode_table.json that each operation's encoding lies in: its mask and match for a host access, what
selects it for the other formats (R111). -/
def TableRow.Statement (i : Instr) : Prop :=
  match i with
  | .hwStart _ => InHostRow i 4 0xFFFFFFFF00000001 0x8000000000000001
  | .hwCtrl0 _ => InHostRow i 4 0xFFFFFFFF00000001 0x8000000000000000
  | .hrCtrl _ => InHostRow i 4 0xFFFFFFFF00000000 0x0000000000000000
  | .hrStatus _ => InHostRow i 4 0xFFFFFFFF00000000 0x0000000400000000
  | .hwInLen _ => InHostRow i 4 0xFFFFFFFF00000000 0x8000000800000000
  | .hrInLen _ => InHostRow i 4 0xFFFFFFFF00000000 0x0000000800000000
  | .hrErrExpected _ => InHostRow i 4 0xFFFFFFFF00000000 0x0000000C00000000
  | .hrErrActual _ => InHostRow i 4 0xFFFFFFFF00000000 0x0000001000000000
  | .hwStatus _ => InHostRow i 4 0xFFFFFFFF00000000 0x8000000400000000
  | .hwErrExpected _ => InHostRow i 4 0xFFFFFFFF00000000 0x8000000C00000000
  | .hwErrActual _ => InHostRow i 4 0xFFFFFFFF00000000 0x8000001000000000
  | .hrRsvd14 _ => InHostRow i 4 0xFFFFFFFF00000000 0x0000001400000000
  | .hrRsvd18 _ => InHostRow i 4 0xFFFFFFFF00000000 0x0000001800000000
  | .hrRsvd1C _ => InHostRow i 4 0xFFFFFFFF00000000 0x0000001C00000000
  | .hwRsvd14 _ => InHostRow i 4 0xFFFFFFFF00000000 0x8000001400000000
  | .hwRsvd18 _ => InHostRow i 4 0xFFFFFFFF00000000 0x8000001800000000
  | .hwRsvd1C _ => InHostRow i 4 0xFFFFFFFF00000000 0x8000001C00000000
  | .hwIn _ _ => InHostRow i 1 0xE000000000000000 0xA000000000000000
  | .hrIn _ _ => InHostRow i 1 0xE000000000000000 0x2000000000000000
  | .hrOut _ _ => InHostRow i 1 0xE000000000000000 0x4000000000000000
  | .hwOut _ _ => InHostRow i 1 0xE000000000000000 0xC000000000000000
  | .eSizechk => encode i = .engine .check
  | .ePixel => encode i = .engine .scan
  | .reset => encode i = .reset
  | .attrFetch _ _ => InStageRow i .attrFetch 10
  | .attrSplit _ => InStageRow i .attrSplit 8
  | .cexp _ => InStageRow i .cexp 3
  | .dim _ _ => InStageRow i .dim 9
  | .clut _ _ => InStageRow i .clut 4
  | .vrow _ => InStageRow i .vrow 8
  | .bmpFetch _ _ => InStageRow i .bmpFetch 13
  | .bitx _ _ => InStageRow i .bitx 11
  | .psel _ _ _ => InStageRow i .psel 49
  | .pwrite _ _ _ => InStageRow i .pwrite 40
  | .seqAdv _ _ _ _ => InStageRow i .seqAdv 16
  | .frame => InStageRow i .frame 0

theorem setWidth_row {n : Nat} (w : BitVec n) : (w.setWidth 64).toNat < 2 ^ n := by
  rw [BitVec.toNat_setWidth]
  exact Nat.lt_of_le_of_lt (Nat.mod_le _ _) w.isLt

theorem TableRow.hwStart (hi : BitVec 31) : TableRow.Statement (.hwStart hi) := ctrlCode_row hi 1 _ (by decide)
theorem TableRow.hwCtrl0 (hi : BitVec 31) : TableRow.Statement (.hwCtrl0 hi) := ctrlCode_row hi 0 _ (by decide)
theorem TableRow.hrCtrl (d : Word) : TableRow.Statement (.hrCtrl d) := regCode_row false 0x00 d _ (by decide)
theorem TableRow.hrStatus (d : Word) : TableRow.Statement (.hrStatus d) := regCode_row false 0x04 d _ (by decide)
theorem TableRow.hwInLen (d : Word) : TableRow.Statement (.hwInLen d) := regCode_row true 0x08 d _ (by decide)
theorem TableRow.hrInLen (d : Word) : TableRow.Statement (.hrInLen d) := regCode_row false 0x08 d _ (by decide)
theorem TableRow.hrErrExpected (d : Word) : TableRow.Statement (.hrErrExpected d) := regCode_row false 0x0C d _ (by decide)
theorem TableRow.hrErrActual (d : Word) : TableRow.Statement (.hrErrActual d) := regCode_row false 0x10 d _ (by decide)
theorem TableRow.hwStatus (d : Word) : TableRow.Statement (.hwStatus d) := regCode_row true 0x04 d _ (by decide)
theorem TableRow.hwErrExpected (d : Word) : TableRow.Statement (.hwErrExpected d) := regCode_row true 0x0C d _ (by decide)
theorem TableRow.hwErrActual (d : Word) : TableRow.Statement (.hwErrActual d) := regCode_row true 0x10 d _ (by decide)
theorem TableRow.hrRsvd14 (d : Word) : TableRow.Statement (.hrRsvd14 d) := regCode_row false 0x14 d _ (by decide)
theorem TableRow.hrRsvd18 (d : Word) : TableRow.Statement (.hrRsvd18 d) := regCode_row false 0x18 d _ (by decide)
theorem TableRow.hrRsvd1C (d : Word) : TableRow.Statement (.hrRsvd1C d) := regCode_row false 0x1C d _ (by decide)
theorem TableRow.hwRsvd14 (d : Word) : TableRow.Statement (.hwRsvd14 d) := regCode_row true 0x14 d _ (by decide)
theorem TableRow.hwRsvd18 (d : Word) : TableRow.Statement (.hwRsvd18 d) := regCode_row true 0x18 d _ (by decide)
theorem TableRow.hwRsvd1C (d : Word) : TableRow.Statement (.hwRsvd1C d) := regCode_row true 0x1C d _ (by decide)
theorem TableRow.hwIn (off : BitVec 29) (d : Word) : TableRow.Statement (.hwIn off d) :=
  ⟨_, rfl, window_row true 1 off d _ (by decide)⟩
theorem TableRow.hrIn (off : BitVec 29) (d : Word) : TableRow.Statement (.hrIn off d) :=
  ⟨_, rfl, window_row false 1 off d _ (by decide)⟩
theorem TableRow.hrOut (off : BitVec 29) (d : Word) : TableRow.Statement (.hrOut off d) :=
  ⟨_, rfl, window_row false 2 off d _ (by decide)⟩
theorem TableRow.hwOut (off : BitVec 29) (d : Word) : TableRow.Statement (.hwOut off d) :=
  ⟨_, rfl, window_row true 2 off d _ (by decide)⟩
theorem TableRow.eSizechk : TableRow.Statement .eSizechk := rfl
theorem TableRow.ePixel : TableRow.Statement .ePixel := rfl
theorem TableRow.reset : TableRow.Statement .reset := rfl
theorem TableRow.attrFetch (cr cc : BitVec 5) : TableRow.Statement (.attrFetch cr cc) := ⟨_, rfl, setWidth_row _⟩
theorem TableRow.attrSplit (a : Byte) : TableRow.Statement (.attrSplit a) := ⟨_, rfl, setWidth_row _⟩
theorem TableRow.cexp (idx : BitVec 3) : TableRow.Statement (.cexp idx) := ⟨_, rfl, setWidth_row _⟩
theorem TableRow.dim (h : Bool) (c : Byte) : TableRow.Statement (.dim h c) := ⟨_, rfl, setWidth_row _⟩
theorem TableRow.clut (h : Bool) (idx : BitVec 3) : TableRow.Statement (.clut h idx) := ⟨_, rfl, setWidth_row _⟩
theorem TableRow.vrow (y : Byte) : TableRow.Statement (.vrow y) := ⟨_, rfl, setWidth_row _⟩
theorem TableRow.bmpFetch (pr : Byte) (cc : BitVec 5) : TableRow.Statement (.bmpFetch pr cc) :=
  ⟨_, rfl, setWidth_row _⟩
theorem TableRow.bitx (d : Byte) (k : BitVec 3) : TableRow.Statement (.bitx d k) := ⟨_, rfl, setWidth_row _⟩
theorem TableRow.psel (p : Bool) (ink paper : Rgb) : TableRow.Statement (.psel p ink paper) :=
  ⟨_, rfl, setWidth_row _⟩
theorem TableRow.pwrite (y x : Byte) (c : Rgb) : TableRow.Statement (.pwrite y x c) := ⟨_, rfl, setWidth_row _⟩
theorem TableRow.seqAdv (cr cc : BitVec 5) (py k : BitVec 3) : TableRow.Statement (.seqAdv cr cc py k) :=
  ⟨_, rfl, setWidth_row _⟩
theorem TableRow.frame : TableRow.Statement .frame := ⟨_, rfl, by decide⟩

end Sys2Proof.Laws
end

