-- ==== Sys2Proof/Machine/HostNotation.lean ====
section
/-! DEFINITION. The host program notation of R116: each line as the host accesses it stands for. The loop of WAIT is the host's
own control flow, so its number of polls is an argument; CHECK performs no access (log 17). -/

namespace Sys2Proof.Machine

/-- One line of a host program (R116). -/
inductive HostLine where
  /-- `SW REG[off], imm32` -/
  | swReg (off : BitVec 29) (imm : Word)
  /-- `LW REG[off] -> t` -/
  | lwReg (off : BitVec 29)
  /-- `SB IN[off], imm8` -/
  | sbIn (off : BitVec 29) (imm : Byte)
  /-- `LB IN[off] -> t` -/
  | lbIn (off : BitVec 29)
  /-- `LB OUT[off] -> t` -/
  | lbOut (off : BitVec 29)
  /-- `SB OUT[off], imm8` -/
  | sbOut (off : BitVec 29) (imm : Byte)
  /-- `START` -/
  | start
  /-- `SETLEN n` -/
  | setlen (n : Word)
  /-- `FILL IN[a..a+count-1], v` -/
  | fill (a : BitVec 29) (count : Nat) (v : Byte)
  /-- `WAIT`, with the number of polls the host makes. -/
  | wait (polls : Nat)
  /-- `CHECK t = v` -/
  | check
  deriving DecidableEq, Repr

/-- The Host Access Words of a line, in order, each with its width in bytes (R116, R77). -/
def HostLine.accesses : HostLine → List (Nat × Haw)
  | .swReg off imm => [(4, haw true 0 off imm)]
  | .lwReg off => [(4, haw false 0 off 0)]
  | .sbIn off imm => [(1, haw true 1 off (imm.setWidth 32))]
  | .lbIn off => [(1, haw false 1 off 0)]
  | .lbOut off => [(1, haw false 2 off 0)]
  | .sbOut off imm => [(1, haw true 2 off (imm.setWidth 32))]
  | .start => [(4, haw true 0 0 1)]
  | .setlen n => [(4, haw true 0 8 n)]
  | .fill a count v => (List.range count).map fun i => (1, haw true 1 (a + BitVec.ofNat 29 i) (v.setWidth 32))
  | .wait polls => List.replicate polls (4, haw false 0 4 0)
  | .check => []

/-- A host program as the events it schedules (log 1). -/
def hostProgram (lines : List HostLine) : List Event :=
  (lines.flatMap HostLine.accesses).map fun a => .host a.1 a.2

end Sys2Proof.Machine
end

