-- ==== Sys2Proof/Tests/Slice0.lean ====
section
/-! SUPPORT. Tests: ill-formed operations, words written out from R111's encodings and spec/95_test_vectors.md, one-step vectors
of spec/95_test_vectors.md, and a witness for the hypotheses of every statement. -/

namespace Sys2Proof.Tests

open Sys2Proof.Machine

/-! ### Ill-formed operations, one for each check of WellFormed -/

theorem test_illformed_hwIn : (Instr.hwIn 49179 0).wellFormed Params.default = false := by decide
theorem test_illformed_hrIn : (Instr.hrIn 49179 0).wellFormed Params.default = false := by decide
theorem test_illformed_hrOut : (Instr.hrOut 147456 0).wellFormed Params.default = false := by decide
theorem test_illformed_hwOut : (Instr.hwOut 147456 0).wellFormed Params.default = false := by decide
theorem test_illformed_attrFetch : (Instr.attrFetch 24 0).wellFormed Params.default = false := by decide
theorem test_illformed_bmpFetch : (Instr.bmpFetch 192 0).wellFormed Params.default = false := by decide
theorem test_illformed_pwrite : (Instr.pwrite 192 0 ⟨0, 0, 0⟩).wellFormed Params.default = false := by decide
theorem test_illformed_seqAdv_row : (Instr.seqAdv 24 0 0 0).wellFormed Params.default = false := by decide
theorem test_illformed_seqAdv_last : (Instr.seqAdv 23 31 7 7).wellFormed Params.default = false := by decide
theorem test_wellformed_edges :
    (Instr.hwIn 49178 0).wellFormed Params.default = true ∧ (Instr.hrOut 147455 0).wellFormed Params.default = true ∧
    (Instr.attrFetch 23 31).wellFormed Params.default = true ∧ (Instr.bmpFetch 191 31).wellFormed Params.default = true ∧
    (Instr.pwrite 191 255 ⟨0, 0, 0⟩).wellFormed Params.default = true ∧
    (Instr.seqAdv 23 31 7 6).wellFormed Params.default = true := by decide
theorem test_illformed_params :
    Params.wellFormed { inCap := 49178 } = false ∧ Params.wellFormed { dimLevel := 222 } = false ∧
    Params.wellFormed { dimLevel := 221 } = true ∧ Params.default.wellFormed = true := by decide

/-! ### Words: W, S, OFF, DATA from R111's table; the rows of spec/95_test_vectors.md, section 3 -/

/-- Bit by bit: W = 1, S = 00, OFF = 0x00, DATA = 1. -/
theorem test_word_hwStart : decode Params.default
    (.host 4 0b1000000000000000000000000000000000000000000000000000000000000001) = .ok (.hwStart 0) := rfl
theorem test_word_hwCtrl0 : decode Params.default (.host 4 0x80000000FFFFFFFE) = .ok (.hwCtrl0 0x7FFFFFFF) := rfl
theorem test_word_hrCtrl : decode Params.default (.host 4 0x0000000000000000) = .ok (.hrCtrl 0) := rfl
theorem test_word_hrStatus : decode Params.default (.host 4 0x0000000400000000) = .ok (.hrStatus 0) := rfl
theorem test_word_hwInLen : decode Params.default (.host 4 0x800000080000C01B) = .ok (.hwInLen 49179) := rfl
theorem test_word_hrInLen : decode Params.default (.host 4 0x0000000800000000) = .ok (.hrInLen 0) := rfl
theorem test_word_hrErrExpected : decode Params.default (.host 4 0x0000000C00000000) = .ok (.hrErrExpected 0) := rfl
theorem test_word_hrErrActual : decode Params.default (.host 4 0x0000001000000000) = .ok (.hrErrActual 0) := rfl
theorem test_word_hwStatus : decode Params.default (.host 4 0x8000000400000007) = .ok (.hwStatus 7) := rfl
theorem test_word_hwErrExpected : decode Params.default (.host 4 0x8000000C00000007) = .ok (.hwErrExpected 7) := rfl
theorem test_word_hwErrActual : decode Params.default (.host 4 0x8000001000000007) = .ok (.hwErrActual 7) := rfl
theorem test_word_hrRsvd14 : decode Params.default (.host 4 0x0000001400000000) = .ok (.hrRsvd14 0) := rfl
theorem test_word_hrRsvd18 : decode Params.default (.host 4 0x0000001800000000) = .ok (.hrRsvd18 0) := rfl
theorem test_word_hrRsvd1C : decode Params.default (.host 4 0x0000001C00000000) = .ok (.hrRsvd1C 0) := rfl
theorem test_word_hwRsvd14 : decode Params.default (.host 4 0x8000001400000005) = .ok (.hwRsvd14 5) := rfl
theorem test_word_hwRsvd18 : decode Params.default (.host 4 0x8000001800000005) = .ok (.hwRsvd18 5) := rfl
theorem test_word_hwRsvd1C : decode Params.default (.host 4 0x8000001C00000005) = .ok (.hwRsvd1C 5) := rfl
/-- Bit by bit: W = 1, S = 01, OFF = 6171, DATA = 0x47 (program P3). -/
theorem test_word_hwIn : decode Params.default
    (.host 1 0b1010000000000000000110000001101100000000000000000000000001000111) = .ok (.hwIn 6171 0x47) := rfl
theorem test_word_hrIn : decode Params.default (.host 1 0x2000001B00000000) = .ok (.hrIn 27 0) := rfl
theorem test_word_hrOut : decode Params.default (.host 1 0x40023FFD00000000) = .ok (.hrOut 147453 0) := rfl
theorem test_word_hwOut : decode Params.default (.host 1 0xC000000000000012) = .ok (.hwOut 0 0x12) := rfl
theorem test_word_engine :
    decode Params.default (.engine .check) = .ok .eSizechk ∧ decode Params.default (.engine .scan) = .ok .ePixel ∧
    decode Params.default (.engine .idle) = .error .engineIdle ∧ decode Params.default .reset = .ok .reset :=
  ⟨rfl, rfl, rfl, rfl⟩
/-- Bit by bit: rrrrr = 00010, ccccc = 00101, the cell (2, 5). -/
theorem test_word_attrFetch : decode Params.default (.stage .attrFetch 0b0001000101) = .ok (.attrFetch 2 5) := rfl
theorem test_word_attrSplit : decode Params.default (.stage .attrSplit 0b10010110) = .ok (.attrSplit 0x96) := rfl
theorem test_word_cexp : decode Params.default (.stage .cexp 0b101) = .ok (.cexp 5) := rfl
theorem test_word_dim : decode Params.default (.stage .dim 0b011111111) = .ok (.dim false 255) := rfl
theorem test_word_clut : decode Params.default (.stage .clut 0b1011) = .ok (.clut true 3) := rfl
/-- Bit by bit: tt = 01, rrr = 000, lll = 001, the screen row 65. -/
theorem test_word_vrow : decode Params.default (.stage .vrow 0b01000001) = .ok (.vrow 65) := rfl
theorem test_word_bmpFetch : decode Params.default (.stage .bmpFetch 0b1011111111111) = .ok (.bmpFetch 191 31) := rfl
theorem test_word_bitx : decode Params.default (.stage .bitx 0b10000000111) = .ok (.bitx 0x80 7) := rfl
/-- p = 1, inkRGB = (255, 0, 223) in bits 47:24, paperRGB = (1, 2, 3) in bits 23:0. -/
theorem test_word_psel : decode Params.default (.stage .psel 0x1FF00DF010203) = .ok (.psel true ⟨255, 0, 223⟩ ⟨1, 2, 3⟩) := rfl
/-- y in bits 15:8 and x in bits 7:0 (R111); the triplet above them is the model's placement (log 14). -/
theorem test_word_pwrite : decode Params.default (.stage .pwrite 0x010203BFFF) = .ok (.pwrite 191 255 ⟨1, 2, 3⟩) := rfl
/-- Bit by bit: the position (22, 31, 7, 7). -/
theorem test_word_seqAdv : decode Params.default (.stage .seqAdv 0b1011011111111111) = .ok (.seqAdv 22 31 7 7) := rfl
theorem test_word_frame : decode Params.default (.stage .frame 0) = .ok .frame := rfl

/-- The accesses that R113 refuses. -/
theorem test_word_rejected :
    decode Params.default (.host 4 0x0000000200000000) = .error .regMisaligned ∧
    decode Params.default (.host 4 0x0000002000000000) = .error .regOffset ∧
    decode Params.default (.host 1 0x4002400000000000) = .error .outOffset ∧
    decode Params.default (.host 1 0x2000C01B00000000) = .error .inOffset ∧
    decode Params.default (.host 4 0x6000000000000000) = .error .spaceNone ∧
    decode Params.default (.host 1 0x0000000400000000) = .error .accessWidth ∧
    decode Params.default (.host 4 0x4000000000000000) = .error .accessWidth ∧
    decode Params.default (.stage .cexp 8) = .error .stageBits ∧
    decode Params.default (.stage .attrFetch 0b1100000000) = .error .stageOperand :=
  ⟨rfl, rfl, rfl, rfl, rfl, rfl, rfl, rfl, rfl⟩

/-- The notation's lines as spec/95_test_vectors.md writes their words (P1, P3, P5). -/
theorem test_notation_words :
    (HostLine.start).accesses = [(4, 0x8000000000000001)] ∧ (HostLine.setlen 49179).accesses = [(4, 0x800000080000C01B)] ∧
    (HostLine.sbIn 6171 0x47).accesses = [(1, 0xA000181B00000047)] ∧ (HostLine.lbIn 27).accesses = [(1, 0x2000001B00000000)] ∧
    (HostLine.lbOut 147453).accesses = [(1, 0x40023FFD00000000)] ∧ (HostLine.lwReg 0x0C).accesses = [(4, 0x0000000C00000000)] ∧
    (HostLine.wait 2).accesses = [(4, 0x0000000400000000), (4, 0x0000000400000000)] ∧
    (HostLine.fill 49177 2 0).accesses = [(1, 0xA000C01900000000), (1, 0xA000C01A00000000)] ∧
    HostLine.check.accesses = [] := by decide

/-- What a step or an operation left, if it answered a next state. -/
def after {α : Type} (o : Host.Outcome State Fault Refusal) (f : State → α) : Option α :=
  match o with
  | .next s => some (f s)
  | .fault _ => none
  | .refused _ => none

/-- Table words: the width alone selects the row where it can, and the word placed runs as the next step. -/
theorem test_table_words :
    decodeTableWord 64 0x8000000000000000 = some (.hwCtrl0 0) ∧ decodeTableWord 64 0xC000000000000000 = some (.hwOut 0 0) ∧
    decodeTableWord 32 0xC01B = some .eSizechk ∧ decodeTableWord 16 0 = some .ePixel ∧ decodeTableWord 8 1 = some .reset ∧
    decodeTableWord 8 2 = none ∧ decodeTableWord 56 0x1FF00DF010203 = some (.psel true ⟨255, 0, 223⟩ ⟨1, 2, 3⟩) := by decide
theorem test_fetch_word_runs :
    step (State.reset.withFetchWord 64 0x0000000C00000000) = .next { State.reset with result := .toHost 0x0000C01B } := rfl
/-- The step placed for PSEL (1, dim yellow, dim red), for PWRITE (8, 0, dim red) and for FRAME is a pixel step: it writes the
ink, it writes R251's three offsets, it starts the scan. -/
theorem test_fetch_datapath_runs_pixel :
    after (step (State.reset.withFetchWord 56 (2 ^ 48 + 0xDFDF00 * 2 ^ 24 + 0xDF0000)))
      (fun t => (readOut t 0, readOut t 1, readOut t 2)) = some (223, 223, 0) ∧
    after (step (State.reset.withFetchWord 40 0xDF00000008)) (fun t => t.outMem.map (·.1))
      = some [24, 25, 26] ∧
    after (step (State.reset.withFetchWord 55296 0)) (fun t => (t.phase, t.seq.bitIdx)) = some (.scan, 1) := by decide
theorem test_fetch_sizechk_runs :
    step (State.reset.withFetchWord 32 0xC01B) = .next { State.reset with lenLatch := 49179, phase := .scan } := rfl

/-! ### Small states -/

/-- A decode at its size check with the length `n`. -/
def checkState (n : Word) : State := { State.reset with inLen := n, lenLatch := n, phase := .check }

/-- A decode that scans, at a position, over the IN bytes given. -/
def scanState (q : Seq) (m : Memory) : State :=
  { State.reset with inLen := 49179, lenLatch := 49179, phase := .scan, seq := q, inMem := m }

/-- After a SizeMismatch with length 100. -/
def errState : State := { State.reset with inLen := 100, lenLatch := 100, err := true, cause := .sizeMismatch, errActual := 100 }

/-- After a completed decode. -/
def doneState : State := { State.reset with inLen := 49179, lenLatch := 49179, done := true, seq := Seq.last }

/-- The last position but one, and the last. -/
def lastButOne : Seq := { cellRow := 23, cellCol := 31, pixY := 7, bitIdx := 6 }

/-! ### One-step vectors of spec/95_test_vectors.md -/

-- Section 2.8 and 2.9.
theorem test_start_clears_error :
    after (exec (.hwStart 0) errState) (fun t => (statusWord t, t.errActual, t.lenLatch)) = some (0x00000001, 0, 100) := by decide
theorem test_start_while_busy :
    after (exec (.hwStart 0) (scanState lastButOne [])) (fun t => (t.phase, t.seq)) = some (.scan, lastButOne) := by decide
theorem test_ctrl0_keeps_status : after (exec (.hwCtrl0 0x7FFFFFFF) errState) statusWord = some 0x00000014 := by decide
theorem test_ctrl_reads_zero : after (exec (.hrCtrl 0) (checkState 5)) (·.result) = some (.toHost 0) := by decide
theorem test_status_after_error : after (exec (.hrStatus 0) errState) (·.result) = some (.toHost 0x00000014) := by decide
theorem test_status_after_done : after (exec (.hrStatus 0) doneState) (·.result) = some (.toHost 0x00000002) := by decide
theorem test_inLen_write : after (exec (.hwInLen 5) State.reset) (·.inLen) = some 5 := by decide
theorem test_inLen_write_busy : after (exec (.hwInLen 5) (checkState 49179)) (·.inLen) = some 49179 := by decide
theorem test_inLen_read : after (exec (.hrInLen 0) errState) (·.result) = some (.toHost 100) := by decide
theorem test_errExpected_read : after (exec (.hrErrExpected 0) State.reset) (·.result) = some (.toHost 0x0000C01B) := by decide
theorem test_errActual_read : after (exec (.hrErrActual 0) errState) (·.result) = some (.toHost 100) := by decide
theorem test_status_write_ignored : after (exec (.hwStatus 0) errState) statusWord = some 0x00000014 := by decide
theorem test_errExpected_write_ignored : after (exec (.hwErrExpected 7) errState) id = some errState := by decide
theorem test_errActual_write_ignored : after (exec (.hwErrActual 7) errState) (·.errActual) = some 100 := by decide
theorem test_rsvd_read :
    after (exec (.hrRsvd14 9) errState) (·.result) = some (.toHost 0) ∧ after (exec (.hrRsvd18 9) errState) (·.result) = some (.toHost 0) ∧
    after (exec (.hrRsvd1C 9) errState) (·.result) = some (.toHost 0) := by decide
theorem test_rsvd_write :
    after (exec (.hwRsvd14 9) errState) id = some errState ∧ after (exec (.hwRsvd18 9) errState) id = some errState ∧
    after (exec (.hwRsvd1C 9) errState) id = some errState := by decide
theorem test_in_write_low_byte :
    after (exec (.hwIn 27 0xABCDEF55) State.reset) (fun t => readIn t 27) = some 0x55 := by decide
theorem test_in_write_busy :
    after (exec (.hwIn 27 0x55) (scanState lastButOne [(27, 1)])) (fun t => readIn t 27) = some 1 := by decide
theorem test_in_read_busy :
    after (exec (.hrIn 49178 0) (scanState lastButOne [(49178, 0xFE)])) (·.result) = some (.toHost 0x000000FE) := by decide
theorem test_out_read :
    after (exec (.hrOut 147455 0) { doneState with outMem := [(147455, 0xDF)] }) (·.result) = some (.toHost 0x000000DF) := by decide
theorem test_out_read_busy_draws : after (exec (.hrOut 0 0) (checkState 5)) (·.draws) = some 1 := by decide
theorem test_out_write_ignored :
    after (exec (.hwOut 0 0x12) { doneState with outMem := [(0, 3)] }) (fun t => readOut t 0) = some 3 := by decide

-- Section 2.1.
theorem test_sizechk_pass : after (exec .eSizechk (checkState 49179)) (fun t => (t.phase, statusWord t, t.errActual))
    = some (.scan, 0x00000001, 0) := by decide
theorem test_sizechk_mismatch :
    after (exec .eSizechk (checkState 49178)) (fun t => (statusWord t, t.errActual)) = some (0x00000014, 0x0000C01A) ∧
    after (exec .eSizechk (checkState 0x0001C01B)) (fun t => (statusWord t, t.errActual)) = some (0x00000014, 0x0001C01B) ∧
    after (exec .eSizechk (checkState 0)) (fun t => (statusWord t, t.errActual)) = some (0x00000014, 0) := by decide

-- Programs P4 (pixel (0, 1) reads scanline 8) and P5 (the last pixel, dim red paper; DONE with the write).
theorem test_pixel_reordered_row :
    after (exec .ePixel (scanState { Seq.first with pixY := 1 } [(283, 0xFF), (6171, 0x47)]))
      (fun t => (readOut t 768, readOut t 769, readOut t 770, t.seq.bitIdx, t.phase)) = some (255, 255, 255, 1, .scan) := by decide
theorem test_pixel_last :
    after (exec .ePixel (scanState Seq.last [(6170, 0xAA), (6938, 0x96)]))
      (fun t => (readOut t 147453, readOut t 147454, readOut t 147455, t.seq, statusWord t))
      = some (223, 0, 0, Seq.last, 0x00000002) := by decide

-- Section 2.9.
theorem test_reset_aborts :
    after (exec .reset (scanState { cellRow := 3, cellCol := 4, pixY := 5, bitIdx := 6 } [(0, 1)]))
      (fun t => (statusWord t, t.phase, t.seq, t.inLen, t.inMem.length)) = some (0, .idle, Seq.first, 0, 0) := by decide
theorem test_reset_clears_error : after (exec .reset errState) (fun t => (statusWord t, t.errActual)) = some (0, 0) := by decide

-- Sections 2.3 to 2.7.
theorem test_attrFetch :
    after (exec (.attrFetch 2 5) { State.reset with inMem := [(6240, 9)] }) (·.result) = some (.byte 9) ∧
    after (exec (.attrFetch 23 31) { State.reset with inMem := [(6938, 8)] }) (·.result) = some (.byte 8) := by decide
theorem test_attrSplit :
    after (exec (.attrSplit 0x96) State.reset) (·.result) = some (.fields { ink := 6, paper := 2, bright := false, flash := true }) ∧
    after (exec (.attrSplit 0x79) State.reset) (·.result) = some (.fields { ink := 1, paper := 7, bright := true, flash := false }) := by
  decide
theorem test_cexp :
    after (exec (.cexp 1) State.reset) (·.result) = some (.rgb ⟨0, 0, 255⟩) ∧
    after (exec (.cexp 2) State.reset) (·.result) = some (.rgb ⟨255, 0, 0⟩) ∧
    after (exec (.cexp 4) State.reset) (·.result) = some (.rgb ⟨0, 255, 0⟩) := by decide
theorem test_dim :
    after (exec (.dim false 255) State.reset) (·.result) = some (.byte 223) ∧
    after (exec (.dim true 255) State.reset) (·.result) = some (.byte 255) ∧
    after (exec (.dim false 0) State.reset) (·.result) = some (.byte 0) := by decide
theorem test_dim_documented_alternative :
    after (exec (.dim false 255) { State.reset with params := { dimLevel := 221 } }) (·.result) = some (.byte 221) := by decide
theorem test_clut :
    after (exec (.clut false 5) State.reset) (·.result) = some (.rgb ⟨0, 223, 223⟩) ∧
    after (exec (.clut true 3) State.reset) (·.result) = some (.rgb ⟨255, 0, 255⟩) := by decide
theorem test_vrow :
    after (exec (.vrow 65) State.reset) (·.result) = some (.byte 72) ∧
    after (exec (.vrow 190) State.reset) (·.result) = some (.byte 183) ∧
    after (exec (.vrow 63) State.reset) (·.result) = some (.byte 63) := by decide
theorem test_bmpFetch :
    after (exec (.bmpFetch 63 31) { State.reset with inMem := [(2074, 9)] }) (·.result) = some (.byte 9) ∧
    after (exec (.bmpFetch 191 31) { State.reset with inMem := [(6170, 8)] }) (·.result) = some (.byte 8) := by decide
theorem test_bitx :
    after (exec (.bitx 0x80 0) State.reset) (·.result) = some (.bit true) ∧
    after (exec (.bitx 0xAA 1) State.reset) (·.result) = some (.bit false) ∧
    after (exec (.bitx 0x01 7) State.reset) (·.result) = some (.bit true) := by decide
theorem test_psel :
    after (exec (.psel false ⟨223, 223, 0⟩ ⟨223, 0, 0⟩) State.reset) (·.result) = some (.rgb ⟨223, 0, 0⟩) ∧
    after (exec (.psel true ⟨255, 255, 255⟩ ⟨0, 0, 0⟩) State.reset) (·.result) = some (.rgb ⟨255, 255, 255⟩) := by decide
theorem test_pwrite_offsets :
    after (exec (.pwrite 8 0 ⟨1, 2, 3⟩) State.reset) (·.outMem) = some [(6144, 1), (6145, 2), (6146, 3)] ∧
    after (exec (.pwrite 191 255 ⟨1, 2, 3⟩) State.reset) (·.outMem) = some [(147453, 1), (147454, 2), (147455, 3)] := by decide
theorem test_seqAdv :
    after (exec (.seqAdv 0 31 7 7) State.reset) (·.result)
      = some (.position { cellRow := 1, cellCol := 0, pixY := 0, bitIdx := 0 }) ∧
    after (exec (.seqAdv 5 2 3 7) State.reset) (·.result)
      = some (.position { cellRow := 5, cellCol := 2, pixY := 4, bitIdx := 0 }) := by decide
/-- Program P5's image at pixels (248, 191), (255, 191) and (248, 184). -/
theorem test_frame_bytes :
    (fun s : State => (frameByte s 147432, frameByte s 147434, frameByte s 147453, frameByte s 147454, frameByte s 142056))
      { State.reset with inMem := [(4378, 0), (6170, 0xAA), (6938, 0x96)] } = (223, 0, 223, 0, 223) := by decide

/-! ### Witnesses: states and operands that meet the hypotheses of each statement -/

theorem witness_ResetAbortsDecode :
    ∃ s : State, s.params.wellFormed = true ∧ s.schedule = .reset :: [] ∧ busy s = true :=
  ⟨{ checkState 5 with schedule := [.reset] }, by decide, rfl, by decide⟩

theorem witness_StartBeginsDecodeOnlyWhenIdle :
    busy State.reset = false ∧ (∃ t, exec (.hwStart 0) State.reset = .next t) ∧ busy (checkState 5) = true ∧
    busy (scanState lastButOne []) = true := ⟨by decide, ⟨_, rfl⟩, by decide, by decide⟩

theorem witness_ControlWriteOfZeroHasNoEffect :
    (0xFFFFFFFE : Word).getLsbD 0 = false ∧ (0 : Word).getLsbD 0 = false := by decide

theorem witness_ControlReadReturnsZero : ∃ t, exec (.hwStart 0x7FFFFFFF) State.reset = .next t := ⟨_, rfl⟩

theorem witness_StatusReadPacksFlags :
    (statusInv (checkState 5) = true ∧ busy (checkState 5) = true) ∧ (statusInv doneState = true ∧ doneState.done = true) ∧
    (statusInv errState = true ∧ errState.err = true) ∧
    (statusInv State.reset = true ∧ busy State.reset = false ∧ State.reset.done = false ∧ State.reset.err = false) := by decide

theorem witness_InLenWriteLockedWhileBusy : busy State.reset = false ∧ busy (checkState 49179) = true := by decide

theorem witness_InLenReadReturnsLastWrite :
    (∃ t, exec .reset errState = .next t) ∧ busy State.reset = false ∧ ∃ t, exec (.hwInLen 0xFFFFFFFF) State.reset = .next t :=
  ⟨⟨_, rfl⟩, by decide, ⟨_, rfl⟩⟩

theorem witness_ErrActualReadsFailingLength :
    (statusInv State.reset = true ∧ State.reset.err = false) ∧
    ((checkState 49178).phase = .check ∧ (checkState 49178).lenLatch.toNat ≠ 49179 ∧ ∃ t, exec .eSizechk (checkState 49178) = .next t) :=
  ⟨by decide, rfl, by decide, ⟨_, rfl⟩⟩

theorem witness_InWriteStoresOneByte :
    ((49178 : BitVec 29).toNat < State.reset.params.inCap ∧ busy State.reset = false ∧ 6939 ≤ (49178 : BitVec 29).toNat) ∧
    ((26 : BitVec 29).toNat < 27 ∧ ¬ (27 : BitVec 29).toNat < 27 ∧ ¬ 6939 ≤ (6938 : BitVec 29).toNat ∧ 6939 ≤ (6939 : BitVec 29).toNat) ∧
    ((49178 : BitVec 29).toNat < (checkState 5).params.inCap ∧ busy (checkState 5) = true) ∧
    State.reset.params.inCap ≤ (49179 : BitVec 29).toNat := by decide

theorem witness_InReadReturnsStoredByte :
    (49178 : BitVec 29).toNat < State.reset.params.inCap ∧ busy State.reset = false ∧
    (∃ t, exec (.hwIn 49178 0x1FF) State.reset = .next t) ∧ State.reset.params.inCap ≤ (49179 : BitVec 29).toNat :=
  ⟨by decide, by decide, ⟨_, rfl⟩, by decide⟩

theorem witness_OutReadReturnsByteOrFreeDraw :
    ((147455 : BitVec 29).toNat < 147456 ∧ busy doneState = false) ∧ ((0 : BitVec 29).toNat < 147456 ∧ busy (checkState 5) = true) ∧
    147456 ≤ (147456 : BitVec 29).toNat := by decide

theorem witness_OutWriteIgnored : (147455 : BitVec 29).toNat < 147456 ∧ 147456 ≤ (147456 : BitVec 29).toNat := by decide

theorem witness_HostReadsHaveNoSideEffect :
    isHostRead (.hrOut 0 0) = true ∧ ∃ t, exec (.hrOut 0 0) (checkState 5) = .next t := ⟨rfl, ⟨_, rfl⟩⟩

/-- The state scheduled to make the misaligned access of spec/95_test_vectors.md, section 2.8. -/
def badAccessState : State := { State.reset with schedule := [.host 4 0x0000000200000000] }

theorem witness_IllegalHostAccessesRefused :
    badAccessState.params.wellFormed = true ∧ hostNext badAccessState 4 0x0000000200000000 = true ∧
    ∀ i, decode badAccessState.params (.host 4 0x0000000200000000) ≠ .ok i :=
  ⟨by decide, by decide, fun i h => by
    have e : decode badAccessState.params (.host 4 0x0000000200000000) = .error .regMisaligned := rfl
    rw [e] at h; cases h⟩

theorem witness_IdleEngineHasNoStep :
    (State.reset.params.wellFormed = true ∧ State.reset.phase = .idle ∧ State.reset.schedule = []) ∧
    (∃ s : State, s.params.wellFormed = true ∧ s.phase = .idle ∧ s.schedule = .engine :: []) ∧
    State.reset.phase ≠ .check ∧ State.reset.phase ≠ .scan ∧ (scanState lastButOne []).phase ≠ .check ∧ (checkState 5).phase ≠ .scan :=
  ⟨by decide, ⟨{ State.reset with schedule := [.engine] }, by decide, rfl, rfl⟩, by decide, by decide, by decide, by decide⟩

theorem witness_SizeCheckScansOrRaises :
    ((checkState 49179).phase = .check ∧ (checkState 49179).lenLatch.toNat = 49179) ∧
    ((checkState 49178).lenLatch.toNat ≠ 49179 ∧ (checkState 49180).lenLatch.toNat ≠ 49179 ∧ (checkState 0x1C01B).lenLatch.toNat ≠ 49179) ∧
    (checkState 49178).done = false ∧ ∃ t, exec .eSizechk (checkState 49178) = .next t := ⟨by decide, by decide, rfl, ⟨_, rfl⟩⟩

theorem witness_ErrorRaisedOnlyBySizeCheck :
    ∃ t, step (checkState 49178) = .next t ∧ (checkState 49178).err = false ∧ t.err = true := ⟨_, rfl, rfl, rfl⟩

theorem witness_PixelStepWritesItsFramePixel :
    (scanState Seq.first []).phase = .scan ∧ (scanState Seq.last []).phase = .scan := ⟨rfl, rfl⟩

theorem witness_PixelStepAdvancesOrCompletes :
    ((scanState lastButOne []).phase = .scan ∧ (scanState lastButOne []).seq.index = 49150 ∧
      ∃ t, exec .ePixel (scanState lastButOne []) = .next t) ∧
    ((scanState Seq.last []).seq.index = 49151 ∧ ∃ t, exec .ePixel (scanState Seq.last []) = .next t) :=
  ⟨⟨rfl, by decide, ⟨_, rfl⟩⟩, by decide, ⟨_, rfl⟩⟩

theorem witness_PixelStepComposesDatapath :
    ((scanState Seq.last []).phase = .scan ∧ (23 : BitVec 5).toNat = Seq.last.cellRow.val ∧ (31 : BitVec 5).toNat = Seq.last.cellCol.val ∧
      (7 : BitVec 3).toNat = Seq.last.pixY.val ∧ (7 : BitVec 3).toNat = Seq.last.bitIdx.val ∧ Seq.last.index = 49151) ∧
    ((23 : BitVec 5).toNat = lastButOne.cellRow.val ∧ (31 : BitVec 5).toNat = lastButOne.cellCol.val ∧
      (7 : BitVec 3).toNat = lastButOne.pixY.val ∧ (6 : BitVec 3).toNat = lastButOne.bitIdx.val ∧ lastButOne.index < 49151) := by decide

theorem witness_SeqAdvReturnsNextPosition :
    ((23 : BitVec 5).toNat < 24 ∧ ((((23 : BitVec 5).toNat * 32 + (31 : BitVec 5).toNat) * 8 + (7 : BitVec 3).toNat) * 8 + (6 : BitVec 3).toNat ≠ 49151)) ∧
    24 ≤ (24 : BitVec 5).toNat ∧
    ((((23 : BitVec 5).toNat * 32 + (31 : BitVec 5).toNat) * 8 + (7 : BitVec 3).toNat) * 8 + (7 : BitVec 3).toNat = 49151) := by decide

theorem witness_ScanVisitsEveryPixelOnce :
    (49151 < 49152 ∧ 255 < 256 ∧ 191 < 192) ∧ Seq.last.index = 49151 ∧ Seq.last.x = 255 ∧ Seq.last.y = 191 := by decide

theorem witness_AttrFetchReadsCellAttribute : (23 : BitVec 5).toNat < 24 ∧ 24 ≤ (24 : BitVec 5).toNat := by decide

theorem witness_DimScalesChannel : (254 : Byte) ≠ 255 ∧ (0 : Byte) ≠ 255 ∧ State.reset.params.dimLevel = 223 := by decide

theorem witness_ClutReturnsTableEntry :
    exec (.cexp 7) State.reset = .next { State.reset with result := .rgb ⟨255, 255, 255⟩ } := rfl

theorem witness_VrowSwapsLineAndCharacterRow : (191 : Byte).toNat ≤ 191 ∧ (0 : Byte).toNat ≤ 191 := by decide

theorem witness_BmpFetchReadsDisplayByte : (191 : Byte).toNat < 192 ∧ 192 ≤ (192 : Byte).toNat := by decide

theorem witness_PwriteStoresTriplet :
    (191 : Byte).toNat < 192 ∧ 192 ≤ (192 : Byte).toNat ∧ (191 * 256 + 255) * 3 + 2 < 147456 ∧ 0 < (0 * 256 + 1) * 3 := by decide

theorem witness_FrameReturnsClosedFormImage : 255 < 256 ∧ 191 < 192 := by decide

/-- Two states whose IN windows differ on both sides of the used region, one of them in an error, one scanning. -/
theorem witness_ImageDependsOnUsedBytesAlone :
    ∃ s t s' t' : State, s.params.dimLevel = t.params.dimLevel ∧ (∀ a, 27 ≤ a → a ≤ 6938 → readIn s a = readIn t a) ∧
      exec .frame s = .next s' ∧ exec .frame t = .next t' ∧ s.inMem ≠ t.inMem ∧ s.err ≠ t.err := by
  refine ⟨{ errState with inMem := [(26, 1)] }, scanState lastButOne [(6939, 2)], _, _, rfl, ?_, rfl, rfl, by decide, by decide⟩
  intro a h1 h2
  have e1 : a ≠ 26 := by omega
  have e2 : a ≠ 6939 := by omega
  simp [readIn, Memory.get?, e1, e2, unlistedIn, errState, scanState]

theorem witness_FlashBitNeverReachesImage :
    ∃ s t : State, busy s = false ∧ (6938 : BitVec 29).toNat < s.params.inCap ∧ 6171 ≤ (6938 : BitVec 29).toNat ∧
      (6938 : BitVec 29).toNat ≤ 6938 ∧ (0x16 : Word).extractLsb' 0 8 = readIn s (6938 : BitVec 29).toNat ^^^ 0x80 ∧
      exec (.hwIn 6938 0x16) s = .next t :=
  ⟨{ State.reset with inMem := [(6938, 0x96)] }, _, by decide, by decide, by decide, by decide, by decide, rfl⟩

theorem witness_FlashBit_first_attribute :
    ∃ s t : State, busy s = false ∧ (6171 : BitVec 29).toNat < s.params.inCap ∧ 6171 ≤ (6171 : BitVec 29).toNat ∧
      (6171 : BitVec 29).toNat ≤ 6938 ∧ (0xC7 : Word).extractLsb' 0 8 = readIn s (6171 : BitVec 29).toNat ^^^ 0x80 ∧
      exec (.hwIn 6171 0xC7) s = .next t :=
  ⟨{ State.reset with inMem := [(6171, 0x47)] }, _, by decide, by decide, by decide, by decide, by decide, rfl⟩

theorem witness_DisplayByteHoldsEightPixels :
    (27 ≤ 27 ∧ 27 ≤ 6170 ∧ 0 < 8 ∧ 0 < 3) ∧ (27 ≤ 6170 ∧ 6170 ≤ 6170 ∧ 7 < 8 ∧ 2 < 3) := by decide

theorem witness_ImageBytesTakeThreeValues : 147455 < 147456 := by decide

theorem witness_EveryStepKeepsInvariants :
    ∃ t, blockInv (checkState 49179) = true ∧ step (checkState 49179) = .next t := ⟨_, by decide, rfl⟩

theorem witness_FlagsChangeOnlyAtFourPlaces :
    (∃ t, step (checkState 49178) = .next t ∧ t.err ≠ (checkState 49178).err) ∧
    (∃ t, step (scanState Seq.last []) = .next t ∧ t.done ≠ (scanState Seq.last []).done) ∧
    (∃ s t : State, s.schedule = [.reset] ∧ step s = .next t ∧ t.cause ≠ s.cause) ∧
    (∃ s t : State, s.schedule = [.host 4 0x8000000000000001] ∧ step s = .next t ∧ t.err ≠ s.err) :=
  ⟨⟨_, rfl, by decide⟩, ⟨_, rfl, by decide⟩, ⟨{ errState with schedule := [.reset] }, _, rfl, rfl, by decide⟩,
    ⟨{ errState with schedule := [.host 4 0x8000000000000001] }, _, rfl, rfl, by decide⟩⟩

theorem witness_PhaseChangesOnlyAsListed :
    (∃ t, step (checkState 49179) = .next t ∧ t.phase ≠ .check) ∧ (∃ t, step (scanState Seq.last []) = .next t ∧ t.phase ≠ .scan) ∧
    (∃ s t : State, s.schedule = [.host 4 0x8000000000000001] ∧ step s = .next t ∧ t.phase ≠ s.phase) ∧
    (∃ s t : State, s.schedule = [.reset] ∧ step s = .next t ∧ t.phase ≠ s.phase) :=
  ⟨⟨_, rfl, by decide⟩, ⟨_, rfl, by decide⟩,
    ⟨{ State.reset with schedule := [.host 4 0x8000000000000001] }, _, rfl, rfl, by decide⟩,
    ⟨{ checkState 5 with schedule := [.reset] }, _, rfl, rfl, by decide⟩⟩

theorem witness_InputsLockedWhileBusy :
    ∃ s t : State, busy s = true ∧ resetNext s = false ∧ s.schedule = [.host 4 0x8000000800000005] ∧ step s = .next t :=
  ⟨{ checkState 5 with schedule := [.host 4 0x8000000800000005] }, _, by decide, by decide, rfl, rfl⟩

theorem witness_OutChangesOnlyInScanSteps :
    ∃ s t : State, step s = .next t ∧ readOut t 0 ≠ readOut s 0 :=
  ⟨{ scanState Seq.first [(27, 0xFF), (6171, 0x47)] with outMem := [(0, 0)] }, _, rfl, by decide⟩

theorem witness_ReturnedValueIsNeverRead :
    (∃ t, exec (.hrStatus 0) errState = .next t) ∧ exec .ePixel errState = .refused .notThisPhase := ⟨⟨_, rfl⟩, rfl⟩

theorem witness_IllFormedConfigurationRefused :
    (∃ s : State, s.params.inCap < 49179) ∧ (∃ s : State, s.params.dimLevel ≠ 223 ∧ s.params.dimLevel ≠ 221) ∧
    (49179 ≤ State.reset.params.inCap ∧ State.reset.params.dimLevel = 223) :=
  ⟨⟨{ State.reset with params := { inCap := 49178 } }, by decide⟩,
    ⟨{ State.reset with params := { dimLevel := 222 } }, by decide, by decide⟩, by decide, by decide⟩

theorem witness_WellFormedOperationsComplete :
    (Instr.pwrite 191 255 ⟨0, 0, 0⟩).wellFormed (checkState 5).params = true ∧ isEngineStep (.pwrite 191 255 ⟨0, 0, 0⟩) = false ∧
    (Instr.seqAdv 23 31 7 6).wellFormed (checkState 5).params = true ∧ isEngineStep (.seqAdv 23 31 7 6) = false := by decide

theorem witness_StepRunsTheNextOperation :
    (∃ s : State, s.params.wellFormed = true ∧ s.schedule = .host 4 0x8000000000000001 :: [] ∧
      decode s.params (.host 4 0x8000000000000001) = .ok (.hwStart 0)) ∧
    (∃ s : State, s.params.wellFormed = true ∧ s.schedule = .reset :: []) ∧
    (∃ s : State, s.params.wellFormed = true ∧ s.schedule = .engine :: [] ∧ s.phase = .check) ∧
    (∃ s : State, s.params.wellFormed = true ∧ s.schedule = .engine :: [] ∧ s.phase = .scan) ∧
    (∃ s : State, s.params.wellFormed = true ∧ s.schedule = [] ∧ s.phase = .check) ∧
    (∃ s : State, s.params.wellFormed = true ∧ s.schedule = [] ∧ s.phase = .scan) ∧
    (∃ s t : State, s.schedule = .host 4 0x0000000C00000000 :: [] ∧ step s = .next t) :=
  ⟨⟨{ State.reset with schedule := [.host 4 0x8000000000000001] }, by decide, rfl, rfl⟩,
    ⟨{ State.reset with schedule := [.reset] }, by decide, rfl⟩,
    ⟨{ checkState 5 with schedule := [.engine] }, by decide, rfl, rfl⟩,
    ⟨{ scanState Seq.first [] with schedule := [.engine] }, by decide, rfl, rfl⟩,
    ⟨checkState 5, by decide, rfl, rfl⟩, ⟨scanState Seq.first [], by decide, rfl, rfl⟩,
    ⟨{ State.reset with schedule := [.host 4 0x0000000C00000000] }, _, rfl, rfl⟩⟩

theorem witness_DecodingInvertsEncoding :
    (Instr.hwIn 49178 0xFFFFFFFF).wellFormed Params.default = true ∧ (Instr.hwCtrl0 0x7FFFFFFF).wellFormed Params.default = true := by
  decide

theorem witness_EncodingInvertsDecoding : decode Params.default (.host 4 0x80000000FFFFFFFE) = .ok (.hwCtrl0 0x7FFFFFFF) := rfl

theorem witness_ScanProgressKeptByEveryStep :
    ∃ t, scanProgress (checkState 49179) ∧ step (checkState 49179) = .next t :=
  ⟨_, ⟨fun _ => rfl, fun h => by cases h⟩, rfl⟩

/-- A memory that lists the first `n` bytes of a function. -/
theorem get?_range (f : Nat → Byte) (a n : Nat) :
    Memory.get? ((List.range n).map fun o => (o, f o)) a = if a < n then some (f a) else none := by
  have app : ∀ m k : Memory, Memory.get? (m ++ k) a = (Memory.get? m a).or (Memory.get? k a) := by
    intro m k
    induction m with
    | nil => rfl
    | cons c m ih => obtain ⟨b, v⟩ := c; simp only [List.cons_append, Memory.get?, ih]; split <;> rfl
  induction n with
  | zero => rfl
  | succ n ih =>
    rw [List.range_succ, List.map_append, app, ih]
    by_cases h : a < n
    · rw [if_pos h, if_pos (by omega)]; rfl
    · by_cases h2 : a = n
      · subst h2; simp [Memory.get?]
      · rw [if_neg h, if_neg (by omega)]; simp [Memory.get?, h2]

/-- A scan at its last position over the OUT bytes given. -/
def lastPixelState (m : Memory) : State := { scanState Seq.last [] with outMem := m }

theorem lastPixel_progress {m : Memory} (hm : ∀ a < 147456, m.get? a = some (frameByte (scanState Seq.last []) a)) :
    scanProgress (lastPixelState m) := by
  refine ⟨fun h => (by cases h), fun _ q _ c hc => ?_⟩
  have hq := pixelNumber_lt q
  show (m.get? _).getD _ = frameByte (lastPixelState m) _
  rw [hm _ (by omega)]
  exact (frameByte_congr (s := scanState Seq.last []) (t := lastPixelState m) rfl rfl rfl _).symm

theorem lastPixel_step (m : Memory) : step (lastPixelState m) = .next (advanceScan (writePixel (lastPixelState m))) := by
  have hp : Params.default.wellFormed = true := by decide
  simp [step, fetch, lastPixelState, scanState, State.reset, hp, busy, decode, exec, execEPixel]

theorem exists_memory (f : Nat → Byte) (n : Nat) : ∃ m : Memory, ∀ a < n, m.get? a = some (f a) :=
  ⟨_, fun a ha => by rw [get?_range f a n, if_pos ha]⟩

theorem witness_DoneMeansWholeFrameWritten :
    ∃ s t, scanProgress s ∧ step s = .next t ∧ s.done = false ∧ t.done = true := by
  obtain ⟨m, hm⟩ := exists_memory (frameByte (scanState Seq.last [])) 147456
  exact ⟨lastPixelState m, _, lastPixel_progress hm, lastPixel_step m, rfl, rfl⟩

theorem witness_FullDecodeProducesFrame :
    (checkState 49179).params.wellFormed = true ∧ (checkState 49179).schedule = [] ∧ (checkState 49179).phase = .check ∧
    (checkState 49179).lenLatch.toNat = 49179 ∧
    (checkState 49179).seq = { cellRow := 0, cellCol := 0, pixY := 0, bitIdx := 0 } := by decide

theorem witness_MismatchedDecodeEndsInOneEngineStep :
    ∃ s : State, s.params.wellFormed = true ∧ busy s = false ∧ s.inLen.toNat ≠ 49179 ∧ (1 : Word).getLsbD 0 = true ∧
      s.schedule = .host 4 (haw true 0 0x00 1) :: .engine :: [] :=
  ⟨{ errState with inLen := 49178, schedule := [.host 4 (haw true 0 0x00 1), .engine] }, by decide, by decide, by decide,
    by decide, rfl⟩

end Sys2Proof.Tests
end

section
/-! PROOFS. What a well-formed configuration is, by its two parameters, and the refusal of every other one. -/

namespace Sys2Proof

/-- R12's conditions on the constants of R9 all hold, so only the two parameters can make a configuration ill formed. -/
theorem Params.wellFormed_iff (p : Params) :
    p.wellFormed = true ↔ 49179 ≤ p.inCap ∧ (p.dimLevel = 223 ∨ p.dimLevel = 221) := by
  have hconst : p.wellFormed = (decide (49179 ≤ p.inCap) && (p.dimLevel == 223 || p.dimLevel == 221)) := rfl
  simp [hconst]

namespace Machine

theorem step_of_not_wellFormed {s : State} (h : ¬ s.params.wellFormed = true) : step s = .refused .illFormedParams :=
  if_neg h

/-- Settles O51: a configuration that misses either bound is not well formed, and `step` asks for that first. -/
theorem illFormedConfigurationRefused : Obligations.IllFormedConfigurationRefused := by
  refine fun s => ⟨fun hbad => step_of_not_wellFormed fun hwf => ?_,
    fun hcap hdim => (Params.wellFormed_iff s.params).2 ⟨hcap, hdim⟩⟩
  obtain ⟨hcap, hdim⟩ := (Params.wellFormed_iff s.params).1 hwf
  rcases hbad with hsmall | ⟨hne223, hne221⟩
  · exact absurd hcap (Nat.not_le.2 hsmall)
  · exact hdim.elim hne223 hne221

end Machine

end Sys2Proof
end

section
/-! PROOFS. The encoder gives back the code of every transition that decodes (R111), so that an operation that a step runs
tells which transition it was. -/

namespace Sys2Proof

/-- A REG write at offset 0 is HW_START or HW_CTRL0 by DATA[0], which together with the ignored bits is DATA. -/
theorem encode_ctrlWrite (d : Word) :
    encode (if d.getLsbD 0 then .hwStart (dataHi d) else .hwCtrl0 (dataHi d)) = regCode true 0x00 d := by
  have hbit : encode (if d.getLsbD 0 then .hwStart (dataHi d) else .hwCtrl0 (dataHi d)) =
      regCode true 0x00 ((dataHi d ++ BitVec.ofBool (d.getLsbD 0)).cast (by decide)) := by
    cases d.getLsbD 0 <;> rfl
  rw [hbit, data_fields]

theorem encode_of_decodeReg {w : Bool} {off : BitVec 29} {d : Word} {i : Instr} (h : decodeReg w off.toNat d = .ok i) :
    encode i = regCode w off d := by
  unfold decodeReg at h
  split at h
  · cases h
  · rename_i haligned
    have hoff : off = BitVec.ofNat 29 (4 * (off.toNat / 4)) := by
      apply BitVec.eq_of_toNat_eq
      have := off.isLt
      rw [BitVec.toNat_ofNat]
      omega
    rw [hoff]
    generalize off.toNat / 4 = k at h ⊢
    split at h <;> cases h
    · exact encode_ctrlWrite d
    all_goals rfl

theorem encode_of_decodeIn {p : Params} {w : Bool} {off : BitVec 29} {d : Word} {i : Instr} (h : decodeIn p w off d = .ok i) :
    encode i = .host 1 (haw w 1 off d) := by
  unfold decodeIn at h
  split at h
  · cases w <;> cases h <;> rfl
  · cases h

theorem encode_of_decodeOut {w : Bool} {off : BitVec 29} {d : Word} {i : Instr} (h : decodeOut w off d = .ok i) :
    encode i = .host 1 (haw w 2 off d) := by
  unfold decodeOut at h
  split at h
  · cases w <;> cases h <;> rfl
  · cases h

theorem encode_of_decodeHost {p : Params} {bytes : Nat} {w : Haw} {i : Instr} (h : decodeHost p bytes w = .ok i) :
    encode i = .host bytes w := by
  have hw := haw_fields w
  unfold decodeHost at h
  split at h
  · cases h
  split at h
  · cases h
  rename_i hspace hbytes
  have hb : bytes = accessBytes (hawS w) := Decidable.not_not.1 hbytes
  rcases space_cases (hawS w) with hs | hs | hs | hs <;> rw [hs] at h hw hb
  · rw [hb, ← hw]; exact encode_of_decodeReg h
  · rw [hb, ← hw]; exact encode_of_decodeIn h
  · rw [hb, ← hw]; exact encode_of_decodeOut h
  · exact absurd hs hspace

namespace Machine

@[simp] theorem Event.code_eq_engine {e : Event} {ph q : Phase} : e.code ph = .engine q ↔ e = .engine ∧ ph = q := by
  cases e <;> simp [Event.code]

@[simp] theorem Event.code_eq_reset {e : Event} {ph : Phase} : e.code ph = .reset ↔ e = .reset := by
  cases e <;> simp [Event.code]

@[simp] theorem Event.code_eq_host {e : Event} {ph : Phase} {bytes : Nat} {w : Haw} :
    e.code ph = .host bytes w ↔ e = .host bytes w := by
  cases e <;> simp [Event.code]

@[simp] theorem Event.code_ne_stage {e : Event} {ph : Phase} {op : Stage} {w : BitVec 64} : e.code ph ≠ .stage op w := by
  cases e <;> simp [Event.code]

/-- The operation that a transition runs encodes to the transition's code. -/
theorem encode_of_decode_event {p : Params} {e : Event} {ph : Phase} {i : Instr} (h : decode p (e.code ph) = .ok i) :
    encode i = e.code ph := by
  cases e with
  | host bytes w => exact encode_of_decodeHost h
  | engine => cases ph <;> cases h <;> rfl
  | reset => cases h; rfl

end Machine

end Sys2Proof
end

section
/-! PROOFS. All that one step can do: which transition came next, and what it made of the state. -/

namespace Sys2Proof.Machine

/-- The transition that a step takes, if it takes one: the engine's where nothing is scheduled (log 2). -/
def nextEvent (s : State) : Event := s.schedule.headD .engine

/-- The state that the next transition starts from: without the transition itself. -/
def afterFetch (s : State) : State := { s with schedule := s.schedule.tail }

theorem afterFetch_of_nil {s : State} (h : s.schedule = []) : afterFetch s = s := by
  cases s
  cases h
  rfl

/-- `fetch` answers the code of the next transition and the state that it starts from. -/
theorem fetch_eq_some {s u : State} {c : Code} (h : fetch s = some (c, u)) :
    c = (nextEvent s).code s.phase ∧ u = afterFetch s := by
  cases hs : s.schedule with
  | nil =>
    rw [fetch_nil hs] at h
    split at h <;> cases h
    exact ⟨by rw [nextEvent, hs]; rfl, (afterFetch_of_nil hs).symm⟩
  | cons e es =>
    rw [fetch_cons hs] at h
    cases h
    exact ⟨by rw [nextEvent, hs]; rfl, by rw [afterFetch, hs]; rfl⟩

/-- A scheduled engine step is the next transition, and so is an unscheduled one while BUSY. -/
theorem engineNext_of_busy {s : State} (h : nextEvent s = .engine) (hbusy : busy s = true) : engineNext s = true := by
  unfold engineNext nextEvent at *
  cases hs : s.schedule with
  | nil => exact hbusy
  | cons e es => rw [hs] at h; exact beq_iff_eq.2 h

theorem schedule_head?_of_nextEvent {s : State} {e : Event} (h : nextEvent s = e) (hne : e ≠ .engine) :
    s.schedule.head? = some e := by
  unfold nextEvent at h
  cases hs : s.schedule with
  | nil => rw [hs] at h; exact absurd h.symm hne
  | cons e' es => rw [hs] at h; exact congrArg some h

theorem resetNext_of_nextEvent {s : State} (h : nextEvent s = .reset) : resetNext s = true :=
  beq_iff_eq.2 (schedule_head?_of_nextEvent h nofun)

theorem hostNext_of_nextEvent {s : State} {bytes : Nat} {w : Haw} (h : nextEvent s = .host bytes w) :
    hostNext s bytes w = true :=
  beq_iff_eq.2 (schedule_head?_of_nextEvent h nofun)

/-- A step that answers a next state runs the operation of the next transition, on the state without that transition. -/
theorem step_runs_nextEvent {s t : State} (h : step s = .next t) :
    ∃ i, decode s.params ((nextEvent s).code s.phase) = .ok i ∧ exec i (afterFetch s) = .next t := by
  unfold step at h
  split at h
  · cases hf : fetch s with
    | none => rw [hf] at h; cases h
    | some cu =>
      obtain ⟨c, u⟩ := cu
      obtain ⟨rfl, rfl⟩ := fetch_eq_some hf
      rw [hf] at h
      dsimp only at h
      split at h
      · cases h
      · exact ⟨_, ‹_›, h⟩
  · cases h

/-- The eight things that a step can do, each with what came next. The ninth of `exec_next`, a triplet written by PWRITE alone,
is no step (R13). -/
inductive Transition (s : State) : State → Prop where
  | returned (r : Result) (d : Nat) : Transition s { afterFetch s with result := r, draws := d }
  | started (d : Word) (hbit : d.getLsbD 0 = true) (hnext : hostNext s 4 (haw true 0 0x00 d) = true)
      (hidle : busy s = false) : Transition s (startDecode (afterFetch s))
  | inLenWritten (d : Word) (hnext : hostNext s 4 (haw true 0 0x08 d) = true) (hidle : busy s = false) :
      Transition s { afterFetch s with inLen := d }
  | inWritten (off : BitVec 29) (d : Word) (hnext : hostNext s 1 (haw true 1 off d) = true) (hidle : busy s = false)
      (hoff : off.toNat < s.params.inCap) : Transition s (writeIn (afterFetch s) off.toNat (dataByte d))
  | sizePassed (hnext : engineNext s = true) (hphase : s.phase = .check) (hlen : s.lenLatch = Config.snapshotLenWord) :
      Transition s { afterFetch s with phase := .scan }
  | sizeFailed (hnext : engineNext s = true) (hphase : s.phase = .check) (hlen : s.lenLatch ≠ Config.snapshotLenWord) :
      Transition s (raiseSizeMismatch (afterFetch s) s.lenLatch)
  | pixelDone (hnext : engineNext s = true) (hphase : s.phase = .scan) :
      Transition s (advanceScan (writePixel (afterFetch s)))
  | wasReset (hnext : resetNext s = true) : Transition s (resetBlock (afterFetch s))

/-- A step that answers a next state is one of the transitions. -/
theorem step_transition {s t : State} (h : step s = .next t) : Transition s t := by
  obtain ⟨i, hdecode, hexec⟩ := step_runs_nextEvent h
  have hcode := (encode_of_decode_event hdecode).symm
  rcases exec_next hexec with ⟨r, d, rfl⟩ | ⟨hi, rfl, hidle, rfl⟩ | ⟨d, rfl, hidle, rfl⟩ | ⟨off, d, rfl, hoff, hidle, rfl⟩ |
    ⟨rfl, hphase, hlen, rfl⟩ | ⟨rfl, hphase, hlen, rfl⟩ | ⟨rfl, hphase, rfl⟩ | ⟨rfl, rfl⟩ | ⟨y, x, c, rfl, -, -⟩
  · exact .returned r d
  · exact .started _ (dataBit0_append hi 1#1) (hostNext_of_nextEvent (Event.code_eq_host.1 hcode)) hidle
  · exact .inLenWritten d (hostNext_of_nextEvent (Event.code_eq_host.1 hcode)) hidle
  · exact .inWritten off d (hostNext_of_nextEvent (Event.code_eq_host.1 hcode)) hidle hoff
  · obtain ⟨hevent, hcheck⟩ := Event.code_eq_engine.1 hcode
    exact .sizePassed (engineNext_of_busy hevent (by simp [busy, hcheck])) hcheck hlen
  · obtain ⟨hevent, hcheck⟩ := Event.code_eq_engine.1 hcode
    exact .sizeFailed (engineNext_of_busy hevent (by simp [busy, hcheck])) hcheck hlen
  · obtain ⟨hevent, hscan⟩ := Event.code_eq_engine.1 hcode
    exact .pixelDone (engineNext_of_busy hevent (by simp [busy, hscan])) hscan
  · exact .wasReset (resetNext_of_nextEvent (Event.code_eq_reset.1 hcode))
  · exact absurd hcode Event.code_ne_stage

end Sys2Proof.Machine
end

section
/-! PROOFS. The block's invariants hold at reset, and every transition keeps them. -/

namespace Sys2Proof.Machine

/-- R42 while BUSY: no result is shown, and LEN_LATCH is IN_LEN. -/
theorem statusInv_iff_of_busy {s : State} (hbusy : busy s = true) :
    statusInv s = true ↔ s.done = false ∧ s.err = false ∧ s.cause = .none ∧ s.errActual = 0 ∧ s.lenLatch = s.inLen := by
  cases hd : s.done <;> cases he : s.err <;> cases hc : s.cause <;> simp [statusInv, hbusy, hd, he, hc]

/-- R42 while not BUSY: at most one of DONE and ERR, and the error record is empty unless ERR. -/
theorem statusInv_iff_of_idle {s : State} (hidle : busy s = false) :
    statusInv s = true ↔ (s.done = true → s.err = false) ∧ (s.err = true ↔ s.cause = .sizeMismatch) ∧
      (s.err = false → s.errActual = 0) := by
  cases hd : s.done <;> cases he : s.err <;> cases hc : s.cause <;> simp [statusInv, hidle, hd, he, hc]

theorem blockInv_iff {s : State} :
    blockInv s = true ↔ s.params.wellFormed = true ∧ statusInv s = true ∧ memInv s = true ∧ scanInv s = true := by
  simp [blockInv, and_assoc]

/-- The schedule is none of the block's state. -/
theorem blockInv_afterFetch (s : State) : blockInv (afterFetch s) = blockInv s := rfl

theorem blockInv_startDecode {s : State} (h : blockInv s = true) : blockInv (startDecode s) = true := by
  obtain ⟨hp, -, hm, -⟩ := blockInv_iff.1 h
  have hbusy : busy (startDecode s) = true := rfl
  exact blockInv_iff.2 ⟨hp, (statusInv_iff_of_busy hbusy).2 ⟨rfl, rfl, rfl, rfl, rfl⟩, hm, by simp [scanInv]⟩

theorem blockInv_inLen {s : State} (hidle : busy s = false) (d : Word) (h : blockInv s = true) :
    blockInv { s with inLen := d } = true := by
  obtain ⟨hp, hs, hm, hq⟩ := blockInv_iff.1 h
  have hidle' : busy { s with inLen := d } = false := hidle
  exact blockInv_iff.2 ⟨hp, (statusInv_iff_of_idle hidle').2 ((statusInv_iff_of_idle hidle).1 hs), hm, hq⟩

theorem blockInv_writeIn {s : State} {off : Nat} (hoff : off < s.params.inCap) (v : Byte) (h : blockInv s = true) :
    blockInv (writeIn s off v) = true := by
  obtain ⟨hp, hs, hm, hq⟩ := blockInv_iff.1 h
  obtain ⟨hin, hout⟩ := Bool.and_eq_true_iff.1 hm
  exact blockInv_iff.2 ⟨hp, hs, Bool.and_eq_true_iff.2 ⟨Memory.wf_write hoff v hin, hout⟩, hq⟩

/-- Passing the size check keeps BUSY, and LEN_LATCH holds what SCAN asks of it. -/
theorem blockInv_scan {s : State} (hphase : s.phase = .check) (hlen : s.lenLatch = Config.snapshotLenWord)
    (h : blockInv s = true) : blockInv { s with phase := .scan } = true := by
  obtain ⟨hp, hs, hm, -⟩ := blockInv_iff.1 h
  have hbusy : busy s = true := by simp [busy, hphase]
  have hbusy' : busy { s with phase := .scan } = true := rfl
  exact blockInv_iff.2 ⟨hp, (statusInv_iff_of_busy hbusy').2 ((statusInv_iff_of_busy hbusy).1 hs), hm, by simp [scanInv, hlen]⟩

theorem blockInv_raiseSizeMismatch {s : State} (hbusy : busy s = true) (actual : Word) (h : blockInv s = true) :
    blockInv (raiseSizeMismatch s actual) = true := by
  obtain ⟨hp, hs, hm, -⟩ := blockInv_iff.1 h
  obtain ⟨hdone, -, -, -, -⟩ := (statusInv_iff_of_busy hbusy).1 hs
  have hidle : busy (raiseSizeMismatch s actual) = false := rfl
  exact blockInv_iff.2 ⟨hp, (statusInv_iff_of_idle hidle).2 (by simp [hdone]), hm, by simp [scanInv]⟩

theorem blockInv_writePixel {s : State} (h : blockInv s = true) : blockInv (writePixel s) = true := by
  obtain ⟨hp, hs, hm, hq⟩ := blockInv_iff.1 h
  obtain ⟨hin, hout⟩ := Bool.and_eq_true_iff.1 hm
  exact blockInv_iff.2 ⟨hp, hs, Bool.and_eq_true_iff.2 ⟨hin, wf_writePixel hout⟩, hq⟩

theorem blockInv_advanceScan {s : State} (hphase : s.phase = .scan) (h : blockInv s = true) :
    blockInv (advanceScan s) = true := by
  obtain ⟨hp, hs, hm, hq⟩ := blockInv_iff.1 h
  rcases advanceScan_cases s with ⟨-, heq⟩ | ⟨-, heq⟩
  · have hbusy : busy s = true := by simp [busy, hphase]
    obtain ⟨-, herr, hcause, hactual, -⟩ := (statusInv_iff_of_busy hbusy).1 hs
    have hidle : busy (finishScan s) = false := rfl
    rw [heq]
    exact blockInv_iff.2 ⟨hp, (statusInv_iff_of_idle hidle).2 (by simp [herr, hcause, hactual]), hm, by simp [scanInv]⟩
  · have hlen : s.lenLatch = Config.snapshotLenWord := by simpa [scanInv, hphase] using hq
    rw [heq]
    exact blockInv_iff.2 ⟨hp, hs, hm, by simp [scanInv, hphase, hlen]⟩

/-- A reset keeps the configuration, and everything else it sets meets the invariants. -/
theorem blockInv_resetBlock {s : State} (hp : s.params.wellFormed = true) : blockInv (resetBlock s) = true :=
  blockInv_iff.2 ⟨hp, rfl, rfl, rfl⟩

/-- Settles O45: each of the transitions keeps the invariants. -/
theorem everyStepKeepsInvariants : Obligations.EveryStepKeepsInvariants := by
  intro s t hinv hstep
  have hfetch : blockInv (afterFetch s) = true := (blockInv_afterFetch s).trans hinv
  cases step_transition hstep with
  | returned r d => exact hfetch
  | started d => exact blockInv_startDecode hfetch
  | inLenWritten d _ hidle => exact blockInv_inLen hidle d hfetch
  | inWritten off d _ _ hoff => exact blockInv_writeIn hoff (dataByte d) hfetch
  | sizePassed _ hphase hlen => exact blockInv_scan hphase hlen hfetch
  | sizeFailed _ hphase _ =>
    have hbusy : busy (afterFetch s) = true := by simp [busy, afterFetch, hphase]
    exact blockInv_raiseSizeMismatch hbusy s.lenLatch hfetch
  | pixelDone _ hphase => exact blockInv_advanceScan hphase (blockInv_writePixel hfetch)
  | wasReset => exact blockInv_resetBlock (blockInv_iff.1 hfetch).1

/-- Settles O44: the reset state is in the default configuration and meets the invariants; its PHASE is IDLE, so it has no scan
in progress. -/
theorem resetStateMeetsInvariants : Obligations.ResetStateMeetsInvariants :=
  ⟨blockInv_iff.2 ⟨rfl, rfl, rfl, rfl⟩, nofun, nofun⟩

/-- Settles O1: each register holds its value of R48's table, and each read returns that value or its constant. -/
theorem resetStateReadsAsTableGives : Obligations.ResetStateReadsAsTableGives :=
  ⟨rfl, rfl, rfl, rfl, rfl, rfl, fun _ => rfl, fun _ => rfl, fun _ => rfl, fun _ => rfl, fun _ => rfl, fun _ => rfl,
    fun _ => rfl, fun _ => rfl, fun _ => rfl, fun _ => rfl⟩

end Sys2Proof.Machine
end

section
/-! PROOFS. Which transitions change the flags, and which change OUT. -/

namespace Sys2Proof.Machine

/-- The end of a scan step sets DONE at the last position alone, and touches neither ERR nor CAUSE. -/
theorem advanceScan_flags (s : State) (hseq : s.seq ≠ Seq.last) :
    (advanceScan s).done = s.done ∧ (advanceScan s).err = s.err ∧ (advanceScan s).cause = s.cause := by
  unfold advanceScan
  rw [if_neg hseq]
  exact ⟨rfl, rfl, rfl⟩

/-- Settles O46: START, the size check and reset are places of the list; a pixel step keeps the flags short of the last
position; the other transitions keep them always. -/
theorem flagsChangeOnlyAtFourPlaces : Obligations.FlagsChangeOnlyAtFourPlaces := by
  intro s t hstep hchange
  cases step_transition hstep with
  | returned | inLenWritten | inWritten => exact absurd hchange (by simp [afterFetch])
  | started d hbit hnext hidle => exact .inr (.inr (.inr ⟨hidle, d, hbit, hnext⟩))
  | sizePassed hnext hphase => exact .inr (.inl ⟨hnext, hphase⟩)
  | sizeFailed hnext hphase => exact .inr (.inl ⟨hnext, hphase⟩)
  | pixelDone hnext hphase =>
    refine .inr (.inr (.inl ⟨hnext, hphase, (Seq.eq_last_iff s.seq).1 ?_⟩))
    by_contra hseq
    obtain ⟨hdone, herr, hcause⟩ := advanceScan_flags (writePixel (afterFetch s)) hseq
    exact hchange.elim (· hdone) (·.elim (· herr) (· hcause))
  | wasReset hnext => exact .inl hnext

/-- Settles O49: OUT's bytes and the number of resets, which with them is all that a read of OUT depends on, are as before
after every transition but a pixel step and a reset. -/
theorem outChangesOnlyInScanSteps : Obligations.OutChangesOnlyInScanSteps := by
  intro s t a hstep hchange
  cases step_transition hstep with
  | pixelDone hnext hphase => exact .inl ⟨hnext, hphase⟩
  | wasReset hnext => exact .inr hnext
  | returned | started | inLenWritten | inWritten | sizePassed | sizeFailed =>
    exact absurd (readOut_congr rfl rfl a) hchange

end Sys2Proof.Machine
end

section
/-! PROOFS. No operation reads the value that the one before returned. -/

namespace Sys2Proof.Machine

/-- Two outcomes end alike but for the value returned, which differs where both left the values they began with, `r` in the
second run. -/
def EndsAlike (r : Result) (o o' : Host.Outcome State Fault Refusal) : Prop :=
  (∀ t, o = .next t → ∃ r', o' = .next { t with result := r' } ∧ (r' = t.result ∨ r' = r)) ∧
    ∀ why, o = .refused why → o' = .refused why

/-- A transition that returns a value leaves that value in both runs. -/
theorem endsAlike_next_same (r : Result) (t : State) : EndsAlike r (.next t) (.next t) :=
  ⟨fun _ h => by cases h; exact ⟨t.result, rfl, .inl rfl⟩, nofun⟩

/-- A transition that returns no value leaves the old one in each run. -/
theorem endsAlike_next_kept (r : Result) (t : State) : EndsAlike r (.next t) (.next { t with result := r }) :=
  ⟨fun _ h => by cases h; exact ⟨r, rfl, .inr rfl⟩, nofun⟩

theorem endsAlike_refused (r : Result) (why : Refusal) : EndsAlike r (.refused why) (.refused why) :=
  ⟨nofun, fun _ h => h⟩

theorem EndsAlike.ite {r : Result} {c : Prop} [Decidable c] {o o' p p' : Host.Outcome State Fault Refusal}
    (ho : EndsAlike r o o') (hp : EndsAlike r p p') : EndsAlike r (if c then o else p) (if c then o' else p') := by
  split
  · exact ho
  · exact hp

theorem advanceScan_result (s : State) (r : Result) :
    advanceScan { s with result := r } = { advanceScan s with result := r } := by
  unfold advanceScan
  split <;> rfl

theorem execEPixel_of_scan {s : State} (hscan : s.phase = .scan) :
    execEPixel s = .next (advanceScan (writePixel s)) := by
  simp only [execEPixel, hscan]

theorem execEPixel_of_not_scan {s : State} (hscan : s.phase ≠ .scan) : execEPixel s = .refused .notThisPhase := by
  unfold execEPixel
  split
  · exact absurd ‹_› hscan
  · rfl
  · rfl

theorem execEPixel_endsAlike (s : State) (r : Result) :
    EndsAlike r (execEPixel s) (execEPixel { s with result := r }) := by
  have hadvance : advanceScan (writePixel { s with result := r }) = { advanceScan (writePixel s) with result := r } :=
    advanceScan_result (writePixel s) r
  by_cases hscan : s.phase = .scan
  · rw [execEPixel_of_scan hscan, execEPixel_of_scan (s := { s with result := r }) hscan, hadvance]
    exact endsAlike_next_kept r _
  · rw [execEPixel_of_not_scan hscan, execEPixel_of_not_scan (s := { s with result := r }) hscan]
    exact endsAlike_refused r _

/-- Every condition that an operation tests, and every value it returns or writes, is the same in the two runs. -/
theorem exec_endsAlike (i : Instr) (s : State) (r : Result) : EndsAlike r (exec i s) (exec i { s with result := r }) := by
  cases i with
  | hwStart _ | hwInLen _ => exact .ite (endsAlike_next_kept r _) (endsAlike_next_kept r _)
  | hwIn _ _ => exact .ite (.ite (endsAlike_next_kept r _) (endsAlike_next_kept r _)) (endsAlike_refused r _)
  | hwOut _ _ | pwrite _ _ _ => exact .ite (endsAlike_next_kept r _) (endsAlike_refused r _)
  | hwCtrl0 _ | hwStatus _ | hwErrExpected _ | hwErrActual _ | hwRsvd14 _ | hwRsvd18 _ | hwRsvd1C _ =>
    exact endsAlike_next_kept r _
  | hrCtrl _ | hrStatus _ | hrInLen _ | hrErrExpected _ | hrErrActual _ | hrRsvd14 _ | hrRsvd18 _ | hrRsvd1C _ | reset
  | attrSplit _ | cexp _ | dim _ _ | clut _ _ | vrow _ | bitx _ _ | psel _ _ _ | frame => exact endsAlike_next_same r _
  | hrIn _ _ | attrFetch _ _ | bmpFetch _ _ => exact .ite (endsAlike_next_same r _) (endsAlike_refused r _)
  | hrOut _ _ => exact .ite (.ite (endsAlike_next_same r _) (endsAlike_next_same r _)) (endsAlike_refused r _)
  | eSizechk =>
    simp only [exec, execESizechk]
    cases s.phase with
    | check => exact .ite (endsAlike_next_kept r _) (endsAlike_next_kept r _)
    | idle | scan => exact endsAlike_refused r _
  | ePixel => exact execEPixel_endsAlike s r
  | seqAdv cr cc py k =>
    simp only [exec, execSeqAdv]
    cases Seq.ofFields cr cc py k with
    | none => exact endsAlike_refused r _
    | some q => exact .ite (endsAlike_refused r _) (endsAlike_next_same r _)

/-- Settles O50, by the two runs of each operation side by side. -/
theorem returnedValueIsNeverRead : Obligations.ReturnedValueIsNeverRead := exec_endsAlike

end Sys2Proof.Machine
end

section
/-! PROOFS. The step that sets DONE is the pixel step at the last scan position, and it completes the image (R82, R174, R255). -/

namespace Sys2Proof.Machine

/-- DONE is set by the end of a scan (R174) and by nothing else. -/
theorem step_sets_done {s t : State} (hstep : step s = .next t) (hbefore : s.done = false) (hafter : t.done = true) :
    s.phase = .scan ∧ s.seq = Seq.last ∧ t = finishScan (writePixel (afterFetch s)) := by
  have hchange : t.done ≠ s.done := by rw [hbefore, hafter]; exact nofun
  cases step_transition hstep with
  | pixelDone _ hphase =>
    rcases advanceScan_cases (writePixel (afterFetch s)) with ⟨hlast, heq⟩ | ⟨hne, -⟩
    · exact ⟨hphase, hlast, heq⟩
    · exact absurd (advanceScan_flags _ hne).1 hchange
  | started | wasReset => cases hafter
  | returned | inLenWritten | inWritten | sizePassed | sizeFailed => exact absurd rfl hchange

/-- After a pixel write, the position just written holds its frame bytes like every one before it: no other position has its
pixel. -/
theorem readOut_writePixel_of_scanned {s : State} (hscanned : scannedSoFar s) {q : Seq} (hq : q.index ≤ s.seq.index) {c : Nat}
    (hc : c < 3) : readOut (writePixel s) (3 * pixelNumber q + c) = frameByte s (3 * pixelNumber q + c) := by
  have hpixel : (3 * pixelNumber q + c) / 3 = pixelNumber q := by omega
  rw [readOut_writePixel, hpixel]
  split
  · rfl
  · rename_i hother
    have hne : q.index ≠ s.seq.index := fun h => hother (congrArg pixelNumber (Seq.index_injective h))
    exact hscanned q (Nat.lt_of_le_of_ne hq hne) c hc

/-- The pixel write at the last position completes the image: no position's number is above it. -/
theorem outIsFrame_finishScan_writePixel {s : State} (hlast : s.seq = Seq.last) (hscanned : scannedSoFar s) :
    outIsFrame (finishScan (writePixel s)) := by
  intro off hoff
  obtain ⟨q, c, hc, rfl⟩ := exists_pixel_of_offset hoff
  have hindex : s.seq.index = 49151 := (Seq.eq_last_iff s.seq).1 hlast
  have hq : q.index ≤ s.seq.index := by have := q.index_lt; omega
  calc readOut (finishScan (writePixel s)) (3 * pixelNumber q + c)
    _ = readOut (writePixel s) (3 * pixelNumber q + c) := readOut_congr rfl rfl _
    _ = frameByte s (3 * pixelNumber q + c) := readOut_writePixel_of_scanned hscanned hq hc
    _ = frameByte (finishScan (writePixel s)) (3 * pixelNumber q + c) := (frameByte_congr rfl rfl rfl _).symm

/-- Settles O58: the step is the last pixel step, the scan's progress holds every earlier pixel, and it ends with PHASE at
IDLE. -/
theorem doneMeansWholeFrameWritten : Obligations.DoneMeansWholeFrameWritten := by
  intro s t hprogress hstep hbefore hafter
  obtain ⟨hphase, hlast, rfl⟩ := step_sets_done hstep hbefore hafter
  have hscanned : scannedSoFar (afterFetch s) := hprogress.2 hphase
  exact ⟨outIsFrame_finishScan_writePixel hlast hscanned, rfl⟩

end Sys2Proof.Machine
end

section
/-! PROOFS. The engine's inputs are locked while BUSY = 1 (R83). -/

namespace Sys2Proof.Machine

@[simp] theorem advanceScan_inMem (s : State) : (advanceScan s).inMem = s.inMem := by unfold advanceScan; split <;> rfl
@[simp] theorem advanceScan_inLen (s : State) : (advanceScan s).inLen = s.inLen := by unfold advanceScan; split <;> rfl
@[simp] theorem advanceScan_lenLatch (s : State) : (advanceScan s).lenLatch = s.lenLatch := by
  unfold advanceScan; split <;> rfl
@[simp] theorem advanceScan_resets (s : State) : (advanceScan s).resets = s.resets := by unfold advanceScan; split <;> rfl

/-- The transitions that write an input need BUSY = 0; the others, short of a reset, write none. -/
theorem step_keeps_inputs_while_busy {s t : State} (hbusy : busy s = true) (hreset : resetNext s = false)
    (hstep : step s = .next t) :
    t.inMem = s.inMem ∧ t.resets = s.resets ∧ t.inLen = s.inLen ∧ t.lenLatch = s.lenLatch := by
  cases step_transition hstep with
  | started _ _ _ hidle | inLenWritten _ _ hidle | inWritten _ _ _ hidle => rw [hbusy] at hidle; cases hidle
  | wasReset hnext => rw [hreset] at hnext; cases hnext
  | pixelDone => simp [afterFetch]
  | returned | sizePassed | sizeFailed => exact ⟨rfl, rfl, rfl, rfl⟩

/-- Settles O48: IN's written bytes stay, and with the number of resets so does every read of IN. -/
theorem inputsLockedWhileBusy : Obligations.InputsLockedWhileBusy := by
  intro s t hbusy hreset hstep
  obtain ⟨hin, hresets, hlen, hlatch⟩ := step_keeps_inputs_while_busy hbusy hreset hstep
  exact ⟨readIn_congr hin hresets, hin, hlen, hlatch⟩

end Sys2Proof.Machine
end

section
/-! PROOFS. Host reads have no side effect (R79). -/

namespace Sys2Proof.Machine

/-- A host read that completes returns a word; a read of OUT while BUSY also advances the model's count of draws (log 9). -/
theorem exec_hostRead {i : Instr} {s t : State} (hread : isHostRead i = true) (h : exec i s = .next t) :
    ∃ v d, t = { s with result := .toHost v, draws := d } := by
  cases i with
  | hrCtrl | hrStatus | hrInLen | hrErrExpected | hrErrActual | hrRsvd14 | hrRsvd18 | hrRsvd1C => cases h; exact ⟨_, _, rfl⟩
  | hrIn off data =>
    simp only [exec, execHrIn] at h
    split at h <;> cases h
    exact ⟨_, _, rfl⟩
  | hrOut off data =>
    simp only [exec, execHrOut] at h
    split at h
    · split at h <;> cases h <;> exact ⟨_, _, rfl⟩
    · cases h
  | _ => cases hread

/-- Settles O18: the value returned and the count of draws are no state of the block, and no read depends on them. -/
theorem hostReadsHaveNoSideEffect : Obligations.HostReadsHaveNoSideEffect := by
  intro i s t hread hexec
  obtain ⟨v, d, rfl⟩ := exec_hostRead hread hexec
  have hsame : sameBlock s { s with result := .toHost v, draws := d } :=
    ⟨rfl, rfl, rfl, rfl, rfl, rfl, rfl, rfl, rfl, rfl, rfl, rfl⟩
  exact ⟨hsame, rfl, fun _ => rfl, fun _ => rfl, rfl, v, rfl⟩

end Sys2Proof.Machine
end

section
/-! PROOFS. Where the operands of a datapath operation stand in its operand word: the encoder puts them where the decoder
takes them from, and together they are the word (R111, log 14). -/

namespace Sys2Proof

/-! ### Fields of a word -/

theorem extractLsb'_whole {n start : Nat} (x : BitVec n) (h : start = 0) : x.extractLsb' start n = x := by
  subst h
  exact BitVec.extractLsb'_eq_self

theorem ofBool_beq_one (b : Bool) : (BitVec.ofBool b == 1#1) = b := by cases b <;> rfl

/-- A flag taken from a word, put back as a field of one bit. -/
theorem ofBool_getLsbD {n : Nat} (w : BitVec n) (k : Nat) : BitVec.ofBool (w.getLsbD k) = w.extractLsb' k 1 := by
  apply BitVec.eq_of_getLsbD_eq
  intro i hi
  obtain rfl : i = 0 := by omega
  simp

/-- The low `n` bits of a word with no bit above them are the word. -/
theorem setWidth_extractLsb'_of_lt {n : Nat} {w : BitVec 64} (h : w.toNat < 2 ^ n) : (w.extractLsb' 0 n).setWidth 64 = w := by
  apply BitVec.eq_of_toNat_eq
  rw [BitVec.toNat_setWidth, BitVec.extractLsb'_toNat, Nat.shiftRight_zero, Nat.mod_eq_of_lt h, Nat.mod_eq_of_lt w.isLt]

theorem rgbWord_rgbAt (w : BitVec 64) (lo : Nat) : rgbWord (rgbAt w lo) = w.extractLsb' lo 24 := by
  simp (disch := omega) only [rgbWord, rgbAt, BitVec.extractLsb'_append_extractLsb'_eq_extractLsb', BitVec.cast_eq]

/-! ### Operand words -/

/-- The operand word of an encoded datapath operation has no bit above the operation's format. -/
theorem operandWord_lt_of_encode {i : Instr} {op : Stage} {w : BitVec 64} (h : encode i = .stage op w) : w.toNat < 2 ^ op.bits := by
  cases i <;> cases h
  case frame => decide
  all_goals exact Laws.setWidth_row _

/-- The decoder takes each operand from the bits where the encoder put it. -/
theorem stageInstr_of_encode {i : Instr} {op : Stage} {w : BitVec 64} (h : encode i = .stage op w) : stageInstr op w = i := by
  cases i <;> cases h
  all_goals simp (disch := omega) only [stageInstr, rgbAt, rgbWord, BitVec.getLsbD_eq_extractLsb', ofBool_beq_one,
    BitVec.extractLsb'_setWidth_of_le, BitVec.extractLsb'_append_eq_of_le, BitVec.extractLsb'_append_eq_of_add_le,
    BitVec.extractLsb'_cast, extractLsb'_whole]

/-- The operands taken from a word with no bit above the operation's format are, put together, the word. -/
theorem encode_stageInstr {op : Stage} {w : BitVec 64} (h : w.toNat < 2 ^ op.bits) :
    encode (stageInstr op w) = .stage op w := by
  cases op
  case frame =>
    obtain rfl : w = 0 := BitVec.eq_of_toNat_eq (Nat.lt_one_iff.1 h)
    rfl
  all_goals
    simp (disch := omega) only [stageInstr, encode, rgbWord_rgbAt, ofBool_getLsbD,
      BitVec.extractLsb'_append_extractLsb'_eq_extractLsb']
    exact congrArg _ (setWidth_extractLsb'_of_lt h)

/-! ### The decoder of operand words -/

/-- A datapath operation is decoded from a word of its format that holds operands in range, and from no other. -/
theorem decodeStage_eq_ok {p : Params} {op : Stage} {w : BitVec 64} {i : Instr} :
    decodeStage p op w = .ok i ↔ w.toNat < 2 ^ op.bits ∧ stageInstr op w = i ∧ i.wellFormed p = true := by
  unfold decodeStage
  split
  · rename_i hbits
    simp [Nat.not_lt.2 hbits]
  · rename_i hbits
    split
    · rename_i hwf
      simp only [Nat.not_le.1 hbits, Except.ok.injEq, true_and]
      exact ⟨fun h => ⟨h, h ▸ hwf⟩, And.left⟩
    · rename_i hwf
      simp only [reduceCtorEq, false_iff]
      rintro ⟨-, rfl, h⟩
      exact hwf h

/-- A well-formed datapath operation is decoded from the operand word that it encodes to. -/
theorem decodeStage_of_encode {p : Params} {i : Instr} {op : Stage} {w : BitVec 64} (h : encode i = .stage op w)
    (hwf : i.wellFormed p = true) : decodeStage p op w = .ok i :=
  decodeStage_eq_ok.2 ⟨operandWord_lt_of_encode h, stageInstr_of_encode h, hwf⟩

end Sys2Proof
end

section
/-! PROOFS. Which host accesses decode, and to what (R113, R77). -/

namespace Sys2Proof

/-! ### Decoding a host access -/

/-- A host access is decoded by the space it selects, at that space's width, and no other is decoded. -/
theorem decodeHost_eq_ok {p : Params} {n : Nat} {w : Haw} {i : Instr} :
    decodeHost p n w = .ok i ↔
      (hawS w = 0 ∧ n = 4 ∧ decodeReg (hawW w) (hawOff w).toNat (hawData w) = .ok i) ∨
      (hawS w = 1 ∧ n = 1 ∧ decodeIn p (hawW w) (hawOff w) (hawData w) = .ok i) ∨
      (hawS w = 2 ∧ n = 1 ∧ decodeOut (hawW w) (hawOff w) (hawData w) = .ok i) := by
  unfold decodeHost
  rcases space_cases (hawS w) with hs | hs | hs | hs <;> simp only [hs]
  · by_cases hn : n = 4 <;> simp [accessBytes, hn]
  · by_cases hn : n = 1 <;> simp [accessBytes, hn]
  · by_cases hn : n = 1 <;> simp [accessBytes, hn]
  · simp

theorem decodeIn_eq_ok {p : Params} {w : Bool} {off : BitVec 29} {d : Word} {i : Instr} :
    decodeIn p w off d = .ok i ↔ off.toNat < p.inCap ∧ (if w then .hwIn off d else .hrIn off d) = i := by
  by_cases h : off.toNat < p.inCap <;> simp [decodeIn, h]

theorem decodeOut_eq_ok {w : Bool} {off : BitVec 29} {d : Word} {i : Instr} :
    decodeOut w off d = .ok i ↔ off.toNat < Config.outLen ∧ (if w then .hwOut off d else .hrOut off d) = i := by
  by_cases h : off.toNat < Config.outLen <;> simp [decodeOut, h]

/-- A REG write at offset 0 decodes by DATA[0]. -/
theorem decodeReg_ctrlWrite (d : Word) :
    decodeReg true 0 d = .ok (if d.getLsbD 0 then .hwStart (dataHi d) else .hwCtrl0 (dataHi d)) := rfl

/-- The REG offsets that decode are the eight words below 0x20, read or written. -/
theorem exists_decodeReg_iff {w : Bool} {off : Nat} {d : Word} :
    (∃ i, decodeReg w off d = .ok i) ↔ off < 0x20 ∧ off % 4 = 0 := by
  constructor
  · rintro ⟨i, h⟩
    unfold decodeReg at h
    split at h
    · cases h
    · split at h <;> cases h
      all_goals omega
  · rintro ⟨hlt, halign⟩
    obtain ⟨k, rfl⟩ : ∃ k, off = 4 * k := ⟨off / 4, by omega⟩
    have hk : k < 8 := by omega
    interval_cases k <;> cases w <;> exact ⟨_, rfl⟩

/-! ### What decodes is well formed -/

theorem wellFormed_of_decodeReg {p : Params} {w : Bool} {off : Nat} {d : Word} {i : Instr} (h : decodeReg w off d = .ok i) :
    i.wellFormed p = true := by
  unfold decodeReg at h
  split at h
  · cases h
  · split at h <;> cases h
    · split <;> rfl
    all_goals rfl

theorem wellFormed_of_decodeHost {p : Params} {n : Nat} {w : Haw} {i : Instr} (h : decodeHost p n w = .ok i) :
    i.wellFormed p = true := by
  rcases decodeHost_eq_ok.1 h with ⟨-, -, hreg⟩ | ⟨-, -, hin⟩ | ⟨-, -, hout⟩
  · exact wellFormed_of_decodeReg hreg
  · obtain ⟨hoff, rfl⟩ := decodeIn_eq_ok.1 hin
    split <;> exact decide_eq_true hoff
  · obtain ⟨hoff, rfl⟩ := decodeOut_eq_ok.1 hout
    split <;> exact decide_eq_true hoff

end Sys2Proof
end

section
/-! PROOFS. Encoding and decoding are inverse in both directions (R111). -/

namespace Sys2Proof

theorem decode_inCode {p : Params} {off : BitVec 29} (h : off.toNat < p.inCap) (w : Bool) (d : Word) :
    decode p (.host 1 (haw w 1 off d)) = .ok (if w then .hwIn off d else .hrIn off d) :=
  decodeHost_eq_ok.2 (.inr (.inl ⟨by simp, rfl, by simp [decodeIn_eq_ok, h]⟩))

theorem decode_outCode {p : Params} {off : BitVec 29} (h : off.toNat < Config.outLen) (w : Bool) (d : Word) :
    decode p (.host 1 (haw w 2 off d)) = .ok (if w then .hwOut off d else .hrOut off d) :=
  decodeHost_eq_ok.2 (.inr (.inr ⟨by simp, rfl, by simp [decodeOut_eq_ok, h]⟩))

/-- A CTRL write decodes by bit 0 of its DATA, and keeps the ignored bits above it. -/
theorem decode_ctrlCode (p : Params) (hi : BitVec 31) (b : BitVec 1) :
    decode p (regCode true 0x00 ((hi ++ b).cast (by decide))) = .ok (if b.getLsbD 0 then .hwStart hi else .hwCtrl0 hi) := by
  rw [decode_regCode]
  exact (decodeReg_ctrlWrite _).trans (by rw [dataBit0_append, dataHi_append])

/-- Settles O55: a REG access decodes by its literal offset, an IN or OUT access by the bound that its well-formedness states,
and a datapath operation by the fields of its operand word. -/
theorem decodingInvertsEncoding : Obligations.DecodingInvertsEncoding := by
  intro p i hwf
  cases i with
  | hwStart hi => exact decode_ctrlCode p hi 1#1
  | hwCtrl0 hi => exact decode_ctrlCode p hi 0#1
  | hrCtrl d | hrStatus d | hwInLen d | hrInLen d | hrErrExpected d | hrErrActual d | hwStatus d | hwErrExpected d
  | hwErrActual d | hrRsvd14 d | hrRsvd18 d | hrRsvd1C d | hwRsvd14 d | hwRsvd18 d | hwRsvd1C d => exact decode_regCode p ..
  | hwIn off d => exact decode_inCode (of_decide_eq_true hwf) true d
  | hrIn off d => exact decode_inCode (of_decide_eq_true hwf) false d
  | hwOut off d => exact decode_outCode (of_decide_eq_true hwf) true d
  | hrOut off d => exact decode_outCode (of_decide_eq_true hwf) false d
  | eSizechk | ePixel | reset => rfl
  | attrFetch | attrSplit | cexp | dim | clut | vrow | bmpFetch | bitx | psel | pwrite | seqAdv | frame =>
    exact decodeStage_of_encode rfl hwf

/-- Settles O56: a host access is its four fields, an engine step and a reset have one code each, and the operands of a
datapath operation are its whole word. -/
theorem encodingInvertsDecoding : Obligations.EncodingInvertsDecoding := by
  intro p c i h
  cases c with
  | host n w => exact ⟨encode_of_decodeHost h, wellFormed_of_decodeHost h⟩
  | engine phase => cases phase <;> cases h <;> exact ⟨rfl, rfl⟩
  | reset => cases h; exact ⟨rfl, rfl⟩
  | stage op w =>
    obtain ⟨hbits, rfl, hwf⟩ := decodeStage_eq_ok.1 h
    exact ⟨encode_stageInstr hbits, hwf⟩

end Sys2Proof
end

section
/-! PROOFS. A step is refused or runs an operation by what the next transition's code decodes to (R13, R17, R113, R170). -/

namespace Sys2Proof

/-! ### The fields of a Host Access Word, by arithmetic -/

theorem toNat_hawS (w : Haw) : (hawS w).toNat = w.toNat / 2 ^ 61 % 4 := by
  rw [hawS, BitVec.extractLsb'_toNat, Nat.shiftRight_eq_div_pow]

theorem toNat_hawOff (w : Haw) : (hawOff w).toNat = w.toNat / 2 ^ 32 % 2 ^ 29 := by
  rw [hawOff, BitVec.extractLsb'_toNat, Nat.shiftRight_eq_div_pow]

/-- The legal host accesses: an aligned word of REG below 0x20, a byte of IN below IN_CAP, a byte of OUT (R113, R77). -/
theorem exists_decodeHost_iff {p : Params} {n : Nat} {w : Haw} :
    (∃ i, decodeHost p n w = .ok i) ↔
      ((hawS w).toNat = 0 ∧ n = 4 ∧ (hawOff w).toNat < 0x20 ∧ (hawOff w).toNat % 4 = 0) ∨
      ((hawS w).toNat = 1 ∧ n = 1 ∧ (hawOff w).toNat < p.inCap) ∨
      ((hawS w).toNat = 2 ∧ n = 1 ∧ (hawOff w).toNat < Config.outLen) := by
  simp only [decodeHost_eq_ok, exists_or, exists_and_left, exists_decodeReg_iff, decodeIn_eq_ok, decodeOut_eq_ok, exists_eq',
    and_true, BitVec.toNat_eq]
  rfl

namespace Machine

/-! ### A step by its next code -/

theorem step_of_decode_ok {s u : State} {c : Code} {i : Instr} (hwf : s.params.wellFormed = true)
    (hfetch : fetch s = some (c, u)) (h : decode s.params c = .ok i) : step s = exec i u := by
  obtain ⟨-, rfl⟩ := fetch_eq_some hfetch
  have h' : decode (afterFetch s).params c = .ok i := h
  simp only [step, hwf, hfetch, h', if_true]

theorem step_of_decode_error {s u : State} {c : Code} {why : Reject} (hwf : s.params.wellFormed = true)
    (hfetch : fetch s = some (c, u)) (h : decode s.params c = .error why) : step s = .refused (.illegal why) := by
  obtain ⟨-, rfl⟩ := fetch_eq_some hfetch
  have h' : decode (afterFetch s).params c = .error why := h
  simp only [step, hwf, hfetch, h', if_true]

theorem fetch_of_hostNext {s : State} {n : Nat} {w : Haw} (h : hostNext s n w = true) :
    fetch s = some (.host n w, afterFetch s) := by
  obtain ⟨es, hs⟩ := List.head?_eq_some_iff.1 (beq_iff_eq.1 h)
  rw [fetch_cons hs, afterFetch, hs]
  rfl

/-- Settles O19: the decoder by the fields of the word, and a step with a host access next by what the decoder answers. -/
theorem illegalHostAccessesRefused : Obligations.IllegalHostAccessesRefused := by
  refine ⟨fun p n w => ?_, fun s n w hwf hnext hillegal => ?_⟩
  · rw [← toNat_hawS, ← toNat_hawOff]
    exact exists_decodeHost_iff
  · cases hd : decode s.params (.host n w) with
    | error why => exact ⟨why, step_of_decode_error hwf (fetch_of_hostNext hnext) hd⟩
    | ok i => exact absurd hd (hillegal i)

/-- A step in a well-formed configuration runs what the head of the schedule decodes to. -/
theorem step_cons {s : State} {e : Event} {es : List Event} {i : Instr} (hwf : s.params.wellFormed = true)
    (hs : s.schedule = e :: es) (h : decode s.params (e.code s.phase) = .ok i) : step s = exec i { s with schedule := es } :=
  step_of_decode_ok hwf (fetch_cons hs) h

/-- The engine's step is E_SIZECHK in PHASE CHECK and E_PIXEL in PHASE SCAN, and there is no other (R170). -/
theorem decode_engine_eq_ok {p : Params} {phase : Phase} {i : Instr} :
    decode p (.engine phase) = .ok i ↔ (phase = .check ∧ i = .eSizechk) ∨ (phase = .scan ∧ i = .ePixel) := by
  cases phase <;> simp [decode, eq_comm]

theorem busy_of_decode_engine {p : Params} {s : State} {i : Instr} (h : decode p (.engine s.phase) = .ok i) :
    busy s = true := by
  rcases decode_engine_eq_ok.1 h with ⟨hphase, -⟩ | ⟨hphase, -⟩ <;> rw [busy, hphase] <;> rfl

/-- With nothing scheduled, a step is the engine's (R318). -/
theorem step_nil {s : State} {i : Instr} (hwf : s.params.wellFormed = true) (hs : s.schedule = [])
    (h : decode s.params (.engine s.phase) = .ok i) : step s = exec i s :=
  step_of_decode_ok hwf ((fetch_nil hs).trans (if_pos (busy_of_decode_engine h))) h

/-- A step that answers a next state is a host access, an engine step or a reset (R13). -/
theorem step_next_kinds {s t : State} (h : step s = .next t) :
    (∃ n w i, hostNext s n w = true ∧ decode s.params (.host n w) = .ok i ∧ exec i (afterFetch s) = .next t) ∨
    (engineNext s = true ∧ s.phase = .check ∧ exec .eSizechk (afterFetch s) = .next t) ∨
    (engineNext s = true ∧ s.phase = .scan ∧ exec .ePixel (afterFetch s) = .next t) ∨
    (resetNext s = true ∧ exec .reset (afterFetch s) = .next t) := by
  obtain ⟨i, hdecode, hexec⟩ := step_runs_nextEvent h
  cases hnext : nextEvent s <;> rw [hnext] at hdecode
  case host n w => exact .inl ⟨n, w, i, hostNext_of_nextEvent hnext, hdecode, hexec⟩
  case engine =>
    have hengine := engineNext_of_busy hnext (busy_of_decode_engine hdecode)
    rcases decode_engine_eq_ok.1 hdecode with ⟨hphase, rfl⟩ | ⟨hphase, rfl⟩
    · exact .inr (.inl ⟨hengine, hphase, hexec⟩)
    · exact .inr (.inr (.inl ⟨hengine, hphase, hexec⟩))
  case reset =>
    cases hdecode
    exact .inr (.inr (.inr ⟨resetNext_of_nextEvent hnext, hexec⟩))

/-- Settles O53: each kind of next transition by what its code decodes to, and `step_next_kinds` for the way back. -/
theorem stepRunsTheNextOperation : Obligations.StepRunsTheNextOperation := by
  refine ⟨fun s i hwf => ⟨?host, ?reset, ?check, ?scan, ?emptyCheck, ?emptyScan⟩, fun s t => step_next_kinds⟩
  case host => exact fun n w es hs hdecode => step_cons hwf hs hdecode
  case reset => exact fun es hs => step_cons hwf hs rfl
  case check => exact fun es hs hphase => step_cons hwf hs (decode_engine_eq_ok.2 (.inl ⟨hphase, rfl⟩))
  case scan => exact fun es hs hphase => step_cons hwf hs (decode_engine_eq_ok.2 (.inr ⟨hphase, rfl⟩))
  case emptyCheck => exact fun hs hphase => step_nil hwf hs (decode_engine_eq_ok.2 (.inl ⟨hphase, rfl⟩))
  case emptyScan => exact fun hs hphase => step_nil hwf hs (decode_engine_eq_ok.2 (.inr ⟨hphase, rfl⟩))

end Machine

/-- Settles O54: each word is one 64-bit literal, on which the decoder evaluates. -/
theorem hostWordsDecodeAsWritten : Obligations.HostWordsDecodeAsWritten :=
  ⟨rfl, rfl, rfl, rfl, rfl, rfl, rfl, rfl, rfl, rfl, rfl, rfl, rfl, rfl, rfl, rfl, rfl, rfl, rfl, rfl, rfl, rfl, rfl, rfl, rfl⟩

end Sys2Proof
end

section
/-! PROOFS. The bytes of the image (R108, R194). -/

namespace Sys2Proof.Machine

/-- An expanded channel, dimmed or not, is 0, DIM_LEVEL or 255: the expansion makes no other channel than 0 and 255. -/
theorem dim_channelMask (level : Byte) (on bright : Bool) :
    dim level (channelMask on) bright = 0 ∨ dim level (channelMask on) bright = level ∨
      dim level (channelMask on) bright = 255 := by
  cases bright <;> cases on
  · exact .inl rfl
  · exact .inr (.inl rfl)
  · exact .inl rfl
  · exact .inr (.inr rfl)

theorem rgbChannel_clut (level : Byte) (idx : BitVec 3) (bright : Bool) (c : Nat) :
    rgbChannel (clut level idx bright) c = 0 ∨ rgbChannel (clut level idx bright) c = level ∨
      rgbChannel (clut level idx bright) c = 255 := by
  unfold rgbChannel
  split
  · exact dim_channelMask ..
  · split <;> exact dim_channelMask ..

/-- A pixel of the image is an entry of the colour LUT, at the cell's bright bit and its ink or paper index (R252). -/
theorem exists_framePixel_eq_clut (s : State) (x y : Nat) :
    ∃ idx bright, framePixel s x y = clut s.params.dimLevel idx bright := by
  unfold framePixel
  dsimp only
  split <;> exact ⟨_, _, rfl⟩

/-- Settles O43: a byte of the image is a channel of an entry of the colour LUT. -/
theorem imageBytesTakeThreeValues : Obligations.ImageBytesTakeThreeValues := by
  intro s off _
  obtain ⟨idx, bright, hpixel⟩ := exists_framePixel_eq_clut s (off / 3 % 256) (off / 3 / 256)
  rw [frameByte, hpixel]
  exact rgbChannel_clut ..

end Sys2Proof.Machine
end

section
/-! PROOFS. What each host access that BUSY, an offset or a length decides does, one lemma per case. -/

namespace Sys2Proof.Machine

/-! ### Writes that BUSY locks -/

theorem exec_hwStart_of_idle {s : State} (hidle : busy s = false) (hi : BitVec 31) :
    exec (.hwStart hi) s = .next (startDecode s) := by
  simp [exec, execHwStart, hidle]

theorem exec_hwStart_of_busy {s : State} (hbusy : busy s = true) (hi : BitVec 31) : exec (.hwStart hi) s = .next s :=
  if_pos hbusy

theorem exec_hwInLen_of_idle {s : State} (hidle : busy s = false) (d : Word) :
    exec (.hwInLen d) s = .next { s with inLen := d } := by
  simp [exec, execHwInLen, hidle]

theorem exec_hwInLen_of_busy {s : State} (hbusy : busy s = true) (d : Word) : exec (.hwInLen d) s = .next s :=
  if_pos hbusy

/-! ### The IN window -/

theorem exec_hwIn_of_idle {off : BitVec 29} {s : State} (hoff : off.toNat < s.params.inCap) (hidle : busy s = false)
    (d : Word) : exec (.hwIn off d) s = .next (writeIn s off.toNat (dataByte d)) := by
  simp [exec, execHwIn, hoff, hidle]

theorem exec_hwIn_of_busy {off : BitVec 29} {s : State} (hoff : off.toNat < s.params.inCap) (hbusy : busy s = true)
    (d : Word) : exec (.hwIn off d) s = .next s :=
  (if_pos hoff).trans (if_pos hbusy)

theorem exec_hwIn_of_le {off : BitVec 29} {s : State} (hoff : s.params.inCap ≤ off.toNat) (d : Word) :
    exec (.hwIn off d) s = .refused (.illegal .inOffset) :=
  if_neg (Nat.not_lt.2 hoff)

theorem exec_hrIn_of_lt {off : BitVec 29} {s : State} (hoff : off.toNat < s.params.inCap) (d : Word) :
    exec (.hrIn off d) s = returnWord s ((readIn s off.toNat).setWidth 32) :=
  if_pos hoff

theorem exec_hrIn_of_le {off : BitVec 29} {s : State} (hoff : s.params.inCap ≤ off.toNat) (d : Word) :
    exec (.hrIn off d) s = .refused (.illegal .inOffset) :=
  if_neg (Nat.not_lt.2 hoff)

/-! ### The OUT window -/

theorem exec_hrOut_of_idle {off : BitVec 29} {s : State} (hoff : off.toNat < Config.outLen) (hidle : busy s = false)
    (d : Word) : exec (.hrOut off d) s = returnWord s ((readOut s off.toNat).setWidth 32) := by
  simp [exec, execHrOut, hoff, hidle]

theorem exec_hrOut_of_busy {off : BitVec 29} {s : State} (hoff : off.toNat < Config.outLen) (hbusy : busy s = true)
    (d : Word) : exec (.hrOut off d) s =
      returnWord { s with draws := s.draws + 1 } ((Config.freeBusyByte s.draws).setWidth 32) :=
  (if_pos hoff).trans (if_pos hbusy)

theorem exec_hrOut_of_le {off : BitVec 29} {s : State} (hoff : Config.outLen ≤ off.toNat) (d : Word) :
    exec (.hrOut off d) s = .refused (.illegal .outOffset) :=
  if_neg (Nat.not_lt.2 hoff)

theorem exec_hwOut_of_lt {off : BitVec 29} (hoff : off.toNat < Config.outLen) (d : Word) (s : State) :
    exec (.hwOut off d) s = .next s :=
  if_pos hoff

theorem exec_hwOut_of_le {off : BitVec 29} (hoff : Config.outLen ≤ off.toNat) (d : Word) (s : State) :
    exec (.hwOut off d) s = .refused (.illegal .outOffset) :=
  if_neg (Nat.not_lt.2 hoff)

/-! ### The size check that fails -/

theorem exec_eSizechk_of_ne {s : State} (hphase : s.phase = .check) (hlen : s.lenLatch ≠ Config.snapshotLenWord) :
    exec .eSizechk s = .next (raiseSizeMismatch s s.lenLatch) := by
  simp [exec, execESizechk, hphase, hlen]

/-! ### Bytes as words -/

/-- A byte extended to a word keeps its value (R152, R153). -/
theorem toNat_setWidth_byte (b : Byte) : (b.setWidth 32).toNat = b.toNat :=
  BitVec.toNat_setWidth_of_le (by decide)

end Sys2Proof.Machine
end

section
/-! PROOFS. The host accesses of the IN and OUT windows (R151 to R154). -/

namespace Sys2Proof.Machine

/-- The image depends on the 6912 IN bytes [27, 6939) and DIM_LEVEL alone (R88, R72). -/
theorem frameByte_congr_used {s t : State} (hp : t.params.dimLevel = s.params.dimLevel)
    (hin : ∀ a, 27 ≤ a → a < 6939 → readIn t a = readIn s a) {off : Nat} (hoff : off < 147456) :
    frameByte t off = frameByte s off := by
  have hpixel : framePixel t (off / 3 % 256) (off / 3 / 256) = framePixel s (off / 3 % 256) (off / 3 / 256) :=
    framePixel_congr hp hin (by omega) (by omega)
  rw [frameByte, frameByte, hpixel]

/-- A write to a header or trailing byte of IN leaves the image (R72). -/
theorem frameByte_writeIn_of_unused {a : Nat} (ha : a < 27 ∨ 6939 ≤ a) (s : State) (v : Byte) {off : Nat}
    (hoff : off < 147456) : frameByte (writeIn s a v) off = frameByte s off := by
  refine frameByte_congr_used (s := s) (t := writeIn s a v) rfl (fun b hlo hhi => ?_) hoff
  rw [readIn_writeIn, if_neg (by omega)]

/-- Settles O14: read after write gives the byte and its frame, and no byte that the image reads is a header or trailing
byte. -/
theorem inWriteStoresOneByte : Obligations.InWriteStoresOneByte := by
  refine fun off d s => ⟨fun hoff hidle => ⟨writeIn s off.toNat (dataByte d), ?_⟩,
    fun hoff hbusy => exec_hwIn_of_busy hoff hbusy d, fun hoff => exec_hwIn_of_le hoff d⟩
  exact ⟨exec_hwIn_of_idle hoff hidle d, fun a => readIn_writeIn s off.toNat a (dataByte d),
    fun a => readOut_writeIn s off.toNat a (dataByte d), rfl,
    fun hunused o ho => frameByte_writeIn_of_unused hunused s (dataByte d) ho⟩

/-- Settles O15: after a write, the read is the written byte by read after write. -/
theorem inReadReturnsStoredByte : Obligations.InReadReturnsStoredByte := by
  refine fun off d s => ⟨fun hoff => ⟨_, exec_hrIn_of_lt hoff d, toNat_setWidth_byte _⟩, fun hoff hidle e t hwrite => ?_,
    fun hoff => exec_hrIn_of_le hoff d⟩
  rw [exec_hwIn_of_idle hoff hidle] at hwrite
  cases hwrite
  rw [exec_hrIn_of_lt (s := writeIn s off.toNat (dataByte e)) hoff, readIn_writeIn, if_pos rfl]
  rfl

/-- Settles O16: the stored byte or the free draw, extended to a word. -/
theorem outReadReturnsByteOrFreeDraw : Obligations.OutReadReturnsByteOrFreeDraw := by
  refine fun off d s => ⟨fun hoff hidle => ⟨_, exec_hrOut_of_idle hoff hidle d, toNat_setWidth_byte _⟩,
    fun hoff hbusy => ⟨_, ?_, exec_hrOut_of_busy hoff hbusy d⟩, fun hoff => exec_hrOut_of_le hoff d⟩
  rw [toNat_setWidth_byte]
  exact (Config.freeBusyByte s.draws).isLt

/-- Settles O17: the offset alone decides. -/
theorem outWriteIgnored : Obligations.OutWriteIgnored :=
  fun _ d s => ⟨fun hoff => exec_hwOut_of_lt hoff d s, fun hoff => exec_hwOut_of_le hoff d s⟩

end Sys2Proof.Machine
end

section
/-! PROOFS. STATUS as a read returns it (R143, R109), and the values that R42 leaves it. -/

namespace Sys2Proof.Machine

/-- The flags of STATUS at their bits (R109): BUSY 0, DONE 1, ERR 2, CAUSE 7:4. -/
theorem toNat_statusWord (s : State) :
    (statusWord s).toNat = (if s.phase = .idle then 0 else 1) + 2 * (if s.done then 1 else 0) + 4 * (if s.err then 1 else 0) +
      16 * (if s.cause = .sizeMismatch then 1 else 0) := by
  unfold statusWord busy
  cases s.phase <;> cases s.done <;> cases s.err <;> cases s.cause <;> rfl

/-- The flags that R42 allows: BUSY, DONE or ERR alone, the last with its CAUSE, or none of them. -/
theorem flags_of_statusInv {s : State} (hinv : statusInv s = true) :
    (busy s = true ∧ s.done = false ∧ s.err = false ∧ s.cause = .none) ∨
    (busy s = false ∧ s.done = true ∧ s.err = false ∧ s.cause = .none) ∨
    (busy s = false ∧ s.done = false ∧ s.err = true ∧ s.cause = .sizeMismatch) ∨
    (busy s = false ∧ s.done = false ∧ s.err = false ∧ s.cause = .none) := by
  cases hb : busy s with
  | true =>
    obtain ⟨hd, he, hc, -, -⟩ := (statusInv_iff_of_busy hb).1 hinv
    exact .inl ⟨rfl, hd, he, hc⟩
  | false =>
    obtain ⟨hexcl, hcause, -⟩ := (statusInv_iff_of_idle hb).1 hinv
    cases he : s.err with
    | true =>
      have hd : s.done = false := Bool.eq_false_iff.2 fun hdone => absurd he (by rw [hexcl hdone]; exact nofun)
      exact .inr (.inr (.inl ⟨rfl, hd, rfl, hcause.1 he⟩))
    | false =>
      have hc : s.cause = .none := by
        cases hc : s.cause with
        | none => rfl
        | sizeMismatch => exact absurd (hcause.2 hc) (by rw [he]; exact nofun)
      cases hd : s.done with
      | true => exact .inr (.inl ⟨rfl, rfl, rfl, hc⟩)
      | false => exact .inr (.inr (.inr ⟨rfl, rfl, rfl, hc⟩))

/-- R42: ERR_ACTUAL holds a length only while ERR is set. -/
theorem errActual_of_statusInv {s : State} (hinv : statusInv s = true) (herr : s.err = false) : s.errActual = 0 := by
  cases hb : busy s with
  | true =>
    obtain ⟨-, -, -, hactual, -⟩ := (statusInv_iff_of_busy hb).1 hinv
    exact hactual
  | false =>
    obtain ⟨-, -, hactual⟩ := (statusInv_iff_of_idle hb).1 hinv
    exact hactual herr

/-- The values of STATUS in R143's list, by the flag that is set. -/
theorem statusWord_of_statusInv {s : State} (hinv : statusInv s = true) :
    (busy s = true → statusWord s = 0x00000001) ∧ (s.done = true → statusWord s = 0x00000002) ∧
    (s.err = true → statusWord s = 0x00000014) ∧
    (busy s = false → s.done = false → s.err = false → statusWord s = 0x00000000) := by
  rcases flags_of_statusInv hinv with ⟨hb, hd, he, hc⟩ | ⟨hb, hd, he, hc⟩ | ⟨hb, hd, he, hc⟩ | ⟨hb, hd, he, hc⟩ <;>
    simp [statusWord, causeCode, hb, hd, he, hc]

/-- While START's decode awaits its size check, STATUS shows BUSY alone (R140). -/
theorem statusWord_startDecode (s : State) : statusWord (startDecode s) = 0x00000001 := by
  have hbusy : busy (startDecode s) = true := rfl
  exact (statusWord_of_statusInv ((statusInv_iff_of_busy hbusy).2 ⟨rfl, rfl, rfl, rfl, rfl⟩)).1 hbusy

/-- Settles O7: the word that is read is `statusWord`, in any state and under R42. -/
theorem statusReadPacksFlags : Obligations.StatusReadPacksFlags :=
  fun _ s => ⟨statusWord s, rfl, toNat_statusWord s, statusWord_of_statusInv⟩

end Sys2Proof.Machine
end

section
/-! PROOFS. The host accesses of the REG space: CTRL, IN_LEN, the error record, the read-only and the reserved offsets (R140 to
R150). -/

namespace Sys2Proof.Machine

/-- Settles O4: a taken START writes what R140 lists, and no byte of IN or OUT. -/
theorem startBeginsDecodeOnlyWhenIdle : Obligations.StartBeginsDecodeOnlyWhenIdle := by
  refine fun hi s => ⟨fun hidle => exec_hwStart_of_idle hidle hi, fun hidle t hstart => ?_,
    fun hbusy => exec_hwStart_of_busy hbusy hi⟩
  rw [exec_hwStart_of_idle hidle] at hstart
  cases hstart
  exact ⟨statusWord_startDecode s, readIn_congr rfl rfl, readOut_congr rfl rfl⟩

/-- Settles O5: DATA[0] = 0 decodes to HW_CTRL0, which has no effect. -/
theorem controlWriteOfZeroHasNoEffect : Obligations.ControlWriteOfZeroHasNoEffect := by
  intro d p s hbit
  have hdecode := (decode_regCode p true 0x00 d).trans (decodeReg_ctrlWrite d)
  rw [hbit] at hdecode
  exact ⟨hdecode, rfl⟩

/-- Settles O6: CTRL has no storage, so a START before the read makes no difference. -/
theorem controlReadReturnsZero : Obligations.ControlReadReturnsZero :=
  fun d p _ => ⟨decode_regCode p false 0x00 d, rfl, fun _ _ _ => rfl⟩

/-- Settles O8: BUSY alone decides. -/
theorem inLenWriteLockedWhileBusy : Obligations.InLenWriteLockedWhileBusy :=
  fun d p _ => ⟨decode_regCode p true 0x08 d, fun hidle => exec_hwInLen_of_idle hidle d,
    fun hbusy => exec_hwInLen_of_busy hbusy d⟩

/-- Settles O9: a read returns the field, which a reset clears and a write with BUSY = 0 sets. -/
theorem inLenReadReturnsLastWrite : Obligations.InLenReadReturnsLastWrite := by
  refine ⟨fun d p => decode_regCode p false 0x08 d, fun d s => rfl, fun d s t hreset => ?_, fun d n s t hidle hwrite => ?_⟩
  · cases hreset
    rfl
  · rw [exec_hwInLen_of_idle hidle] at hwrite
    cases hwrite
    rfl

/-- Settles O10: ERR_EXPECTED is hardwired (R35). -/
theorem errExpectedReadsSnapshotLength : Obligations.ErrExpectedReadsSnapshotLength :=
  fun d p _ => ⟨decode_regCode p false 0x0C d, rfl, rfl⟩

/-- Settles O11: a read returns the field, which R42 keeps 0 without an error, and which a failed size check sets to
LEN_LATCH. -/
theorem errActualReadsFailingLength : Obligations.ErrActualReadsFailingLength := by
  have hread (d : Word) (s : State) : exec (.hrErrActual d) s = .next { s with result := .toHost s.errActual } := rfl
  refine ⟨fun d p => decode_regCode p false 0x10 d, hread, fun d s hinv herr => ?_, fun d s t hphase hne hcheck => ?_⟩
  · rw [hread, errActual_of_statusInv hinv herr]
  · have hlen : s.lenLatch ≠ Config.snapshotLenWord := fun h => hne (congrArg BitVec.toNat h)
    rw [exec_eSizechk_of_ne hphase hlen] at hcheck
    cases hcheck
    exact hread d _

/-- Settles O12: each offset decodes to its own row, and none of the three has an effect. -/
theorem readOnlyRegisterWritesIgnored : Obligations.ReadOnlyRegisterWritesIgnored :=
  fun d p _ => ⟨decode_regCode p true 0x04 d, rfl, decode_regCode p true 0x0C d, rfl, decode_regCode p true 0x10 d, rfl⟩

/-- A REG offset of 0x20 or more, or a misaligned one, selects no operation (R113). -/
theorem decode_reg_ne_ok {off : BitVec 29} (hoff : 0x20 ≤ off.toNat ∨ off.toNat % 4 ≠ 0) (p : Params) (w : Bool) (d : Word)
    (i : Instr) : decode p (regCode w off d) ≠ .ok i := by
  intro hdecode
  rw [decode_regCode] at hdecode
  obtain ⟨hlt, haligned⟩ := exists_decodeReg_iff.1 ⟨i, hdecode⟩
  omega

/-- Settles O13: the six rows of the reserved offsets, and the refusal of the others. -/
theorem reservedOffsetsReadZeroIgnoreWrites : Obligations.ReservedOffsetsReadZeroIgnoreWrites :=
  fun d p _ => ⟨decode_regCode p false 0x14 d, decode_regCode p false 0x18 d, decode_regCode p false 0x1C d,
    decode_regCode p true 0x14 d, decode_regCode p true 0x18 d, decode_regCode p true 0x1C d,
    rfl, rfl, rfl, rfl, rfl, rfl, fun w _ hoff => decode_reg_ne_ok hoff p w d⟩

end Sys2Proof.Machine
end

section
/-! PROOFS. Every well-formed operation but the engine's completes in every state (R155, R310). -/

namespace Sys2Proof.Machine

/-- SEQ_ADV's operand names a scan position, not the last one, where the operation is well formed (R173). -/
theorem ofFields_of_wellFormed {p : Params} {cr cc : BitVec 5} {py k : BitVec 3}
    (hwf : (Instr.seqAdv cr cc py k).wellFormed p = true) : ∃ q, Seq.ofFields cr cc py k = some q ∧ q ≠ Seq.last := by
  simp only [Instr.wellFormed, Bool.and_eq_true, decide_eq_true_eq, Bool.not_eq_true', Bool.and_eq_false_iff,
    beq_eq_false_iff_ne] at hwf
  obtain ⟨hrow, hnotlast⟩ := hwf
  refine ⟨_, dif_pos hrow, fun hlast => ?_⟩
  injection hlast with h1 h2 h3 h4
  have hcr : cr = 23 := BitVec.eq_of_toNat_eq (show cr.toNat = 23 from congrArg Fin.val h1)
  have hcc : cc = 31 := BitVec.eq_of_toNat_eq (show cc.toNat = 31 from congrArg Fin.val h2)
  have hpy : py = 7 := BitVec.eq_of_toNat_eq (show py.toNat = 7 from congrArg Fin.val h3)
  have hk : k = 7 := BitVec.eq_of_toNat_eq (show k.toNat = 7 from congrArg Fin.val h4)
  simp [hcr, hcc, hpy, hk] at hnotlast

theorem exec_seqAdv_of_wellFormed {cr cc : BitVec 5} {py k : BitVec 3} {s : State}
    (hwf : (Instr.seqAdv cr cc py k).wellFormed s.params = true) : ∃ t, exec (.seqAdv cr cc py k) s = .next t := by
  obtain ⟨q, hq, hne⟩ := ofFields_of_wellFormed hwf
  simp only [exec, execSeqAdv, hq, if_neg hne]
  exact ⟨_, rfl⟩

/-- Settles O52: BUSY chooses between two ways to complete, and an operand in its range meets the only bound that an operation
tests. -/
theorem wellFormedOperationsComplete : Obligations.WellFormedOperationsComplete := by
  intro i s hwf hengine
  cases i with
  | eSizechk | ePixel => cases hengine
  | hwStart hi =>
    cases hb : busy s
    · exact ⟨_, exec_hwStart_of_idle hb hi⟩
    · exact ⟨_, exec_hwStart_of_busy hb hi⟩
  | hwInLen d =>
    cases hb : busy s
    · exact ⟨_, exec_hwInLen_of_idle hb d⟩
    · exact ⟨_, exec_hwInLen_of_busy hb d⟩
  | hwIn off d =>
    have hoff : off.toNat < s.params.inCap := of_decide_eq_true hwf
    cases hb : busy s
    · exact ⟨_, exec_hwIn_of_idle hoff hb d⟩
    · exact ⟨_, exec_hwIn_of_busy hoff hb d⟩
  | hrOut off d =>
    have hoff : off.toNat < Config.outLen := of_decide_eq_true hwf
    cases hb : busy s
    · exact ⟨_, exec_hrOut_of_idle hoff hb d⟩
    · exact ⟨_, exec_hrOut_of_busy hoff hb d⟩
  | hrIn off d => exact ⟨_, exec_hrIn_of_lt (of_decide_eq_true hwf) d⟩
  | hwOut off d => exact ⟨_, exec_hwOut_of_lt (of_decide_eq_true hwf) d s⟩
  | attrFetch | bmpFetch | pwrite => exact ⟨_, if_pos (of_decide_eq_true hwf)⟩
  | seqAdv => exact exec_seqAdv_of_wellFormed hwf
  | hwCtrl0 | hrCtrl | hrStatus | hrInLen | hrErrExpected | hrErrActual | hwStatus | hwErrExpected | hwErrActual | hrRsvd14
  | hrRsvd18 | hrRsvd1C | hwRsvd14 | hwRsvd18 | hwRsvd1C | reset | attrSplit | cexp | dim | clut | vrow | bitx | psel | frame =>
    exact ⟨_, rfl⟩

end Sys2Proof.Machine
end

section
/-! PROOFS. Every transition keeps the progress of a scan (R172, R177, R88). -/

namespace Sys2Proof.Machine

/-- While BUSY = 0 no decode is in progress. -/
theorem scanProgress_of_idle {s : State} (hidle : busy s = false) : scanProgress s := by
  have hphase : s.phase = .idle := by simpa [busy] using hidle
  simp [scanProgress, hphase]

/-- No position comes before the first one. -/
theorem scannedSoFar_of_first {s : State} (hfirst : s.seq = Seq.first) : scannedSoFar s := by
  intro q hq
  rw [hfirst] at hq
  exact absurd hq (Nat.not_lt_zero q.index)

/-- A pixel step adds its own pixel to those produced (R172), or ends the scan (R174). -/
theorem scanProgress_advanceScan_writePixel {s : State} (hphase : s.phase = .scan) (hscanned : scannedSoFar s) :
    scanProgress (advanceScan (writePixel s)) := by
  rcases advanceScan_cases (writePixel s) with ⟨-, heq⟩ | ⟨hne, heq⟩ <;> rw [heq]
  · exact scanProgress_of_idle rfl
  · have hnotCheck : s.phase ≠ .check := by simp [hphase]
    have hindex : (seqAdv s.seq).index = s.seq.index + 1 := index_seqAdv hne
    refine ⟨fun hcheck => absurd hcheck hnotCheck, fun _ q (hq : q.index < (seqAdv s.seq).index) c hc => ?_⟩
    rw [hindex] at hq
    calc readOut { writePixel s with seq := seqAdv s.seq } (3 * pixelNumber q + c)
      _ = frameByte s (3 * pixelNumber q + c) := readOut_writePixel_of_scanned hscanned (Nat.le_of_lt_succ hq) hc
      _ = frameByte { writePixel s with seq := seqAdv s.seq } (3 * pixelNumber q + c) := (frameByte_congr rfl rfl rfl _).symm

/-- Settles O57: a pixel step produces the next pixel; the size check that passes starts with none produced; the other
transitions leave what a scan's progress depends on, or BUSY = 0. -/
theorem scanProgressKeptByEveryStep : Obligations.ScanProgressKeptByEveryStep := by
  intro s t hprogress hstep
  cases step_transition hstep with
  | returned => exact hprogress
  | started => exact ⟨fun _ => rfl, nofun⟩
  | inLenWritten _ _ hidle | inWritten _ _ _ hidle => exact scanProgress_of_idle hidle
  | sizePassed _ hphase => exact ⟨nofun, fun _ => scannedSoFar_of_first (hprogress.1 hphase)⟩
  | sizeFailed | wasReset => exact scanProgress_of_idle rfl
  | pixelDone _ hphase => exact scanProgress_advanceScan_writePixel (s := afterFetch s) hphase (hprogress.2 hphase)

end Sys2Proof.Machine
end

section
/-! PROOFS. What SEQ_ADV does to a scan position, and where its iterations lead (R172, R173, R177). -/

namespace Sys2Proof.Machine

/-! ### SEQ_ADV as an operation of its own -/

/-- The operand of SEQ_ADV names the position whose four fields it holds. -/
theorem ofFields_eq_some {cr cc : BitVec 5} {py k : BitVec 3} {q : Seq} :
    Seq.ofFields cr cc py k = some q ↔ q.cellRow.val = cr.toNat ∧ q.cellCol.val = cc.toNat ∧ q.pixY.val = py.toNat ∧
      q.bitIdx.val = k.toNat := by
  unfold Seq.ofFields
  constructor
  · intro h
    split at h <;> cases h
    exact ⟨rfl, rfl, rfl, rfl⟩
  · rintro ⟨hcr, hcc, hpy, hk⟩
    rw [dif_pos (hcr ▸ q.cellRow.isLt)]
    exact congrArg some (Seq.ext_val hcr.symm hcc.symm hpy.symm hk.symm)

/-- A cellRow of 24 or more is in no position (R41). -/
theorem ofFields_of_le {cr : BitVec 5} (hcr : 24 ≤ cr.toNat) (cc : BitVec 5) (py k : BitVec 3) :
    Seq.ofFields cr cc py k = none :=
  dif_neg (Nat.not_lt.2 hcr)

/-- The number of the position that the operand of SEQ_ADV names. -/
theorem index_of_ofFields {cr cc : BitVec 5} {py k : BitVec 3} {q : Seq} (hq : Seq.ofFields cr cc py k = some q) :
    q.index = ((cr.toNat * 32 + cc.toNat) * 8 + py.toNat) * 8 + k.toNat := by
  obtain ⟨hcr, hcc, hpy, hk⟩ := ofFields_eq_some.1 hq
  rw [Seq.index, hcr, hcc, hpy, hk]

theorem exec_seqAdv_of_ne_last {cr cc : BitVec 5} {py k : BitVec 3} {q : Seq} (hq : Seq.ofFields cr cc py k = some q)
    (hne : q ≠ Seq.last) (s : State) : exec (.seqAdv cr cc py k) s = .next { s with result := .position (seqAdv q) } := by
  simp only [exec, execSeqAdv, hq, if_neg hne, returns]

theorem exec_seqAdv_of_last {cr cc : BitVec 5} {py k : BitVec 3} (hq : Seq.ofFields cr cc py k = some Seq.last) (s : State) :
    exec (.seqAdv cr cc py k) s = .refused (.illegal .stageOperand) := by
  simp only [exec, execSeqAdv, hq, if_true]

theorem exec_seqAdv_of_none {cr cc : BitVec 5} {py k : BitVec 3} (hq : Seq.ofFields cr cc py k = none) (s : State) :
    exec (.seqAdv cr cc py k) s = .refused (.illegal .stageOperand) := by
  simp only [exec, execSeqAdv, hq]

/-- Settles O26: the operand names a position unless its cellRow is 24 or more, and of the positions only the last one has no
next. -/
theorem seqAdvReturnsNextPosition : Obligations.SeqAdvReturnsNextPosition := by
  intro cr cc py k s
  rcases Nat.lt_or_ge cr.toNat 24 with hlt | hge
  · have hq : Seq.ofFields cr cc py k = some _ := dif_pos hlt
    rw [← index_of_ofFields hq]
    refine ⟨fun _ hne => ?_, fun hlast => ?_⟩
    · have hne' := mt (Seq.eq_last_iff _).1 hne
      exact ⟨_, exec_seqAdv_of_ne_last hq hne' s, index_seqAdv hne'⟩
    · have hlast' := (Seq.eq_last_iff _).2 (hlast.resolve_left (Nat.not_le.2 hlt))
      exact exec_seqAdv_of_last (hlast' ▸ hq) s
  · exact ⟨fun hlt => absurd hlt (Nat.not_lt.2 hge), fun _ => exec_seqAdv_of_none (ofFields_of_le hge cc py k) s⟩

/-! ### The scan order -/

/-- From the first position, `n` steps of SEQ_ADV lead to the position with number `n`. -/
theorem index_iterate_seqAdv {n : Nat} (hn : n < 49152) : (seqAdv^[n] Seq.first).index = n := by
  induction n with
  | zero => rfl
  | succ n ih =>
    have hindex : (seqAdv^[n] Seq.first).index = n := ih (Nat.lt_of_succ_lt hn)
    have hne : seqAdv^[n] Seq.first ≠ Seq.last := fun hlast => by
      have := (Seq.eq_last_iff _).1 hlast
      omega
    rw [Function.iterate_succ_apply', index_seqAdv hne, hindex]

/-- The scan comes to a position after as many steps as its number, and at no other time. -/
theorem iterate_seqAdv_eq_iff {n : Nat} (hn : n < 49152) (q : Seq) : seqAdv^[n] Seq.first = q ↔ n = q.index := by
  constructor
  · rintro rfl
    exact (index_iterate_seqAdv hn).symm
  · rintro rfl
    exact Seq.index_injective (index_iterate_seqAdv hn)

/-- The position of a pixel is the only one with its coordinates. -/
theorem coordinates_eq_iff {x y : Nat} (hx : x < 256) (hy : y < 192) (q : Seq) :
    q.x = x ∧ q.y = y ↔ q = Seq.ofPixel x y hx hy := by
  constructor
  · rintro ⟨rfl, rfl⟩
    exact pixelNumber_injective (by simp [pixelNumber])
  · rintro rfl
    exact ⟨Seq.x_ofPixel hx hy, Seq.y_ofPixel hx hy⟩

/-- The scan comes to every position exactly once. -/
theorem existsUnique_iterate_seqAdv (q : Seq) : ∃! n, n < 49152 ∧ seqAdv^[n] Seq.first = q :=
  ⟨q.index, ⟨q.index_lt, (iterate_seqAdv_eq_iff q.index_lt q).2 rfl⟩, fun _ ⟨hn, hq⟩ => (iterate_seqAdv_eq_iff hn q).1 hq⟩

/-- Settles O27: the number of a position is the time at which the scan comes to it, and each pixel has its own position. -/
theorem scanVisitsEveryPixelOnce : Obligations.ScanVisitsEveryPixelOnce := by
  refine ⟨fun n => index_iterate_seqAdv, existsUnique_iterate_seqAdv, fun x hx y hy => ?_,
    fun q => ⟨rfl, rfl, rfl, q.x_lt, q.y_lt⟩, fun x hx y hy => ?_, fun n hn => ?_⟩
  · simp only [coordinates_eq_iff hx hy]
    exact existsUnique_iterate_seqAdv _
  · simp only [coordinates_eq_iff hx hy]
    exact existsUnique_eq
  · exact ⟨_, index_iterate_seqAdv hn, fun q hq => ((iterate_seqAdv_eq_iff hn q).2 hq.symm).symm⟩

end Sys2Proof.Machine
end

section
/-! PROOFS. What the engine's two operations do in each PHASE, and how PHASE changes (R170, R171, R179). -/

namespace Sys2Proof.Machine

/-! ### The size check -/

/-- The size check compares all 32 bits (R171). -/
theorem eq_snapshotLenWord_iff {w : Word} : w = Config.snapshotLenWord ↔ w.toNat = 49179 := BitVec.toNat_eq

theorem exec_eSizechk_of_eq {s : State} (hphase : s.phase = .check) (hlen : s.lenLatch = Config.snapshotLenWord) :
    exec .eSizechk s = .next { s with phase := .scan } := by
  simp [exec, execESizechk, hphase, hlen]

theorem exec_eSizechk_of_not_check {s : State} (hphase : s.phase ≠ .check) :
    exec .eSizechk s = .refused .notThisPhase := by
  cases hp : s.phase with
  | check => exact absurd hp hphase
  | idle | scan => simp only [exec, execESizechk, hp]

/-- A SizeMismatch shows ERR and its CAUSE alone (R282). -/
theorem statusWord_raiseSizeMismatch {s : State} (hdone : s.done = false) (actual : Word) :
    statusWord (raiseSizeMismatch s actual) = 0x00000014 := by
  simp [statusWord, causeCode, busy, hdone]

/-- Settles O21: LEN_LATCH has the value 49179 or another one. -/
theorem sizeCheckScansOrRaises : Obligations.SizeCheckScansOrRaises := by
  intro s hphase
  have hraise (hne : s.lenLatch.toNat ≠ 49179) : exec .eSizechk s = .next (raiseSizeMismatch s s.lenLatch) :=
    exec_eSizechk_of_ne hphase (mt eq_snapshotLenWord_iff.1 hne)
  refine ⟨fun hlen => exec_eSizechk_of_eq hphase (eq_snapshotLenWord_iff.2 hlen), hraise, fun hne hdone t ht => ?_⟩
  rw [hraise hne] at ht
  cases ht
  exact statusWord_raiseSizeMismatch hdone s.lenLatch

/-! ### The idle engine -/

theorem step_of_fetch_none {s : State} (hwf : s.params.wellFormed = true) (hfetch : fetch s = none) :
    step s = .refused .noTransition := by
  simp only [step, hwf, hfetch, if_true]

/-- Settles O20: with PHASE = IDLE there is no transition to fetch, or its code decodes to nothing; in another PHASE than its
own an engine operation is refused. -/
theorem idleEngineHasNoStep : Obligations.IdleEngineHasNoStep := by
  refine ⟨fun s hwf hidle hs => ?_, fun s es hwf hidle hs => ?_, fun s => exec_eSizechk_of_not_check,
    fun s => execEPixel_of_not_scan⟩
  · exact step_of_fetch_none hwf (by simp [fetch_nil hs, busy, hidle])
  · exact step_of_decode_error hwf (fetch_cons hs) (by rw [hidle]; rfl)

/-! ### The changes of PHASE -/

/-- Settles O47: START, the size check and a reset are in the list, and so is a pixel step at the last position; at another one
it stays in SCAN. -/
theorem phaseChangesOnlyAsListed : Obligations.PhaseChangesOnlyAsListed := by
  intro s t hstep hchange
  cases step_transition hstep with
  | returned | inLenWritten | inWritten => exact absurd rfl hchange
  | started d hbit hnext hidle =>
    have hphase : s.phase = .idle := by simpa [busy] using hidle
    exact .inr (.inl ⟨hphase, rfl, d, hbit, hnext⟩)
  | sizePassed hnext hphase hlen => exact .inr (.inr (.inl ⟨hphase, hnext, .inl ⟨eq_snapshotLenWord_iff.1 hlen, rfl⟩⟩))
  | sizeFailed hnext hphase hlen =>
    exact .inr (.inr (.inl ⟨hphase, hnext, .inr ⟨mt eq_snapshotLenWord_iff.2 hlen, rfl⟩⟩))
  | pixelDone hnext hphase =>
    rcases advanceScan_cases (writePixel (afterFetch s)) with ⟨hlast, heq⟩ | ⟨-, heq⟩ <;> rw [heq] at hchange ⊢
    · exact .inr (.inr (.inr ⟨hphase, hnext, (Seq.eq_last_iff s.seq).1 hlast, rfl⟩))
    · exact absurd rfl hchange
  | wasReset hnext => exact .inl ⟨hnext, rfl⟩

end Sys2Proof.Machine
end

section
/-! PROOFS. The pixel step: its write, its end, and the datapath operations that it composes (R173 to R175, R251, R252). -/

namespace Sys2Proof.Machine

/-! ### What a pixel step does -/

@[simp] theorem advanceScan_outMem (s : State) : (advanceScan s).outMem = s.outMem := by unfold advanceScan; split <;> rfl

/-- The end of a scan step changes SEQ, PHASE and DONE alone. -/
theorem advanceScan_eq (s : State) :
    advanceScan s =
      { s with seq := (advanceScan s).seq, phase := (advanceScan s).phase, done := (advanceScan s).done } := by
  unfold advanceScan
  split <;> rfl

theorem exec_ePixel_of_last {s : State} (hphase : s.phase = .scan) (hlast : s.seq = Seq.last) :
    exec .ePixel s = .next (finishScan (writePixel s)) :=
  (execEPixel_of_scan hphase).trans (congrArg _ (if_pos hlast))

theorem exec_ePixel_of_ne_last {s : State} (hphase : s.phase = .scan) (hne : s.seq ≠ Seq.last) :
    exec .ePixel s = .next { writePixel s with seq := seqAdv s.seq } :=
  (execEPixel_of_scan hphase).trans (congrArg _ (if_neg hne))

/-- Settles O23: the pixel write byte by byte; the end of the step writes no memory. -/
theorem pixelStepWritesItsFramePixel : Obligations.PixelStepWritesItsFramePixel := by
  refine fun s hphase => ⟨_, execEPixel_of_scan hphase, fun a => ?_, readIn_congr (by simp) (by simp), ?_⟩
  · calc readOut (advanceScan (writePixel s)) a
      _ = readOut (writePixel s) a := readOut_congr (by simp) (by simp) a
      _ = if a / 3 = pixelNumber s.seq then frameByte s a else readOut s a := readOut_writePixel s a
  · rw [advanceScan_outMem]
    exact advanceScan_eq (writePixel s)

/-- Settles O24: the two ends of a pixel step, by whether SEQ is the last position. -/
theorem pixelStepAdvancesOrCompletes : Obligations.PixelStepAdvancesOrCompletes := by
  intro s t hphase hexec
  by_cases hlast : s.seq = Seq.last
  · rw [exec_ePixel_of_last hphase hlast] at hexec
    cases hexec
    have hindex : s.seq.index = 49151 := (Seq.eq_last_iff s.seq).1 hlast
    refine ⟨fun hlt => absurd hindex (Nat.ne_of_lt hlt), fun _ => ⟨rfl, rfl, rfl, rfl, rfl, rfl, ?_⟩⟩
    rw [hlast]
    exact ⟨rfl, rfl, rfl, rfl⟩
  · rw [exec_ePixel_of_ne_last hphase hlast] at hexec
    cases hexec
    refine ⟨fun _ => ?_, fun hindex => absurd ((Seq.eq_last_iff s.seq).2 hindex) hlast⟩
    exact ⟨index_seqAdv hlast, hphase, rfl, rfl, rfl, by simp [busy, hphase]⟩

/-! ### The datapath operations of a pixel step -/

/-- PWRITE of the triplet of R175 at the pixel that SEQ names is the pixel write of a scan step. -/
theorem exec_pwrite_pixelRgb (s : State) :
    exec (.pwrite (BitVec.ofNat 8 s.seq.y) (BitVec.ofNat 8 s.seq.x) (pixelRgb s s.seq)) s = .next (writePixel s) := by
  have hy : (BitVec.ofNat 8 s.seq.y).toNat = s.seq.y := Nat.mod_eq_of_lt (Nat.lt_trans s.seq.y_lt (by decide))
  have hx : (BitVec.ofNat 8 s.seq.x).toNat = s.seq.x := Nat.mod_eq_of_lt s.seq.x_lt
  have hrange : (BitVec.ofNat 8 s.seq.y).toNat < Config.height := hy.symm ▸ s.seq.y_lt
  exact (if_pos hrange).trans (by rw [hy, hx, writePixel])

/-- Settles O25: each operation is run on the fields of SEQ, which are in its operand range; PSEL returns the triplet of R175,
and PWRITE of it makes the pixel write. -/
theorem pixelStepComposesDatapath : Obligations.PixelStepComposesDatapath := by
  intro s cr cc py k hphase hcr hcc hpy hk
  have hy : cr.toNat * 8 + py.toNat = s.seq.y := by rw [hcr, hpy, Seq.y]
  have hx : cc.toNat * 8 + k.toNat = s.seq.x := by rw [hcc, hk, Seq.x]
  have hq : Seq.ofFields cr cc py k = some s.seq := ofFields_eq_some.2 ⟨hcr.symm, hcc.symm, hpy.symm, hk.symm⟩
  have hattr : exec (.attrFetch cr cc) s =
      .next { s with result := .byte (attrFetch s s.seq.cellRow.val s.seq.cellCol.val) } := by
    rw [← hcr, ← hcc]
    exact if_pos (hcr ▸ s.seq.cellRow.isLt)
  have hbmp : exec (.bmpFetch (vrow (BitVec.ofNat 8 s.seq.y)) cc) s =
      .next { s with result := .byte (bmpFetch s (vrow (BitVec.ofNat 8 s.seq.y)).toNat s.seq.cellCol.val) } := by
    rw [← hcc]
    exact if_pos (vrow_lt s.seq.y_lt)
  have hbit (dbyte : Byte) : exec (.bitx dbyte k) s = .next { s with result := .bit (bitx dbyte s.seq.bitIdx.val) } := by
    rw [← hk]
    rfl
  rw [hy, hx]
  refine ⟨_, _, _, _, _, _, _, _, writePixel s, hattr, rfl, rfl, rfl, rfl, hbmp, hbit _, rfl, exec_pwrite_pixelRgb s,
    fun hindex => exec_ePixel_of_last hphase ((Seq.eq_last_iff s.seq).2 hindex), fun hindex => ?_⟩
  have hne : s.seq ≠ Seq.last := mt (Seq.eq_last_iff s.seq).1 (Nat.ne_of_lt hindex)
  exact ⟨_, exec_seqAdv_of_ne_last hq hne s, exec_ePixel_of_ne_last hphase hne⟩

end Sys2Proof.Machine
end

section
/-! PROOFS. The colour stage (R190 to R196): the fields of an attr byte, the expansion and the dimming of a channel, the
colour LUT against its table, and the flash bit. -/

namespace Sys2Proof.Machine

/-! ### Bits as arithmetic -/

theorem getLsbD_eq_div_mod {w : Nat} (v : BitVec w) (i : Nat) : v.getLsbD i = (v.toNat / 2 ^ i % 2 == 1) :=
  Nat.testBit_eq_decide_div_mod_eq

theorem toNat_extractLsb'_eq_div_mod {w : Nat} (v : BitVec w) (lo len : Nat) :
    (v.extractLsb' lo len).toNat = v.toNat / 2 ^ lo % 2 ^ len := by
  rw [BitVec.extractLsb'_toNat, Nat.shiftRight_eq_div_pow]

/-! ### The fields of an attr byte -/

theorem toNat_attrSplit_ink (attr : Byte) : (attrSplit attr).ink.toNat = attr.toNat % 8 :=
  (toNat_extractLsb'_eq_div_mod attr 0 3).trans (congrArg (· % 8) (Nat.div_one _))

theorem toNat_attrSplit_paper (attr : Byte) : (attrSplit attr).paper.toNat = attr.toNat / 8 % 8 :=
  toNat_extractLsb'_eq_div_mod attr 3 3

theorem attrSplit_bright (attr : Byte) : (attrSplit attr).bright = (attr.toNat / 64 % 2 == 1) :=
  getLsbD_eq_div_mod attr 6

theorem attrSplit_flash (attr : Byte) : (attrSplit attr).flash = (attr.toNat / 128 == 1) := by
  have hlt : attr.toNat / 128 < 2 := Nat.div_lt_of_lt_mul attr.isLt
  rw [← Nat.mod_eq_of_lt hlt]
  exact getLsbD_eq_div_mod attr 7

/-- Inverting bit 7 of an attr byte inverts its flash field and no other (R191, R101). -/
theorem attrSplit_xor_flash (attr : Byte) :
    attrSplit (attr ^^^ 0x80) = { attrSplit attr with flash := !(attrSplit attr).flash } := by
  simp [attrSplit, BitVec.extractLsb'_xor]

/-! ### The operations of the stage -/

theorem exec_attrFetch_of_lt {cr : BitVec 5} (hcr : cr.toNat < 24) (cc : BitVec 5) (s : State) :
    exec (.attrFetch cr cc) s = .next { s with result := .byte (readIn s (6171 + cr.toNat * 32 + cc.toNat)) } :=
  if_pos hcr

theorem exec_attrFetch_of_le {cr : BitVec 5} (hcr : 24 ≤ cr.toNat) (cc : BitVec 5) (s : State) :
    exec (.attrFetch cr cc) s = .refused (.illegal .stageOperand) :=
  if_neg (Nat.not_lt.2 hcr)

theorem exec_attrSplit (attr : Byte) (s : State) :
    exec (.attrSplit attr) s = .next { s with result := .fields (attrSplit attr) } := rfl

theorem exec_cexp (idx : BitVec 3) (s : State) : exec (.cexp idx) s = .next { s with result := .rgb (cexp idx) } := rfl

theorem exec_dim (bright : Bool) (c : Byte) (s : State) :
    exec (.dim bright c) s = .next { s with result := .byte (dim s.params.dimLevel c bright) } := rfl

theorem exec_clut (bright : Bool) (idx : BitVec 3) (s : State) :
    exec (.clut bright idx) s = .next { s with result := .rgb (clut s.params.dimLevel idx bright) } := rfl

/-- Settles O28: the offset of a cell in range stays inside the attr region. -/
theorem attrFetchReadsCellAttribute : Obligations.AttrFetchReadsCellAttribute := by
  refine fun cr cc s => ⟨fun hcr => ⟨exec_attrFetch_of_lt hcr cc s, ?_⟩, fun hcr => exec_attrFetch_of_le hcr cc s⟩
  have hcc : cc.toNat < 32 := cc.isLt
  omega

/-- Settles O29: the fields that are returned are those of `attrSplit`, each by its bits. -/
theorem attrSplitReturnsFields : Obligations.AttrSplitReturnsFields := by
  refine fun attr s => ⟨_, exec_attrSplit attr s, toNat_attrSplit_ink attr, toNat_attrSplit_paper attr, ?_, ?_⟩
  · rw [attrSplit_bright, beq_iff_eq]
  · rw [attrSplit_flash, beq_iff_eq]

/-- Settles O30: the triplet that is returned is `cexp idx`, one mask per index bit. -/
theorem cexpMasksChannels : Obligations.CexpMasksChannels :=
  fun idx s => ⟨_, exec_cexp idx s, rfl, rfl, rfl⟩

/-! ### Dimming -/

@[simp] theorem dim_bright (level c : Byte) : dim level c true = c := rfl

@[simp] theorem dim_zero (level : Byte) (bright : Bool) : dim level 0 bright = 0 := by cases bright <;> rfl

@[simp] theorem dim_full (level : Byte) : dim level 255 false = level := rfl

/-- Only the full channel is dimmed to DIM_LEVEL; the formula of R193 gives 0 its own value 0. -/
theorem dim_of_ne_full {c : Byte} (hc : c ≠ 255) (level : Byte) : dim level c false = BitVec.ofNat 8 (c.toNat * 7 / 8) := by
  by_cases hzero : c = 0
  · rw [hzero]
    rfl
  · exact (if_neg hzero).trans (if_neg hc)

/-- With DIM_LEVEL = 223 = floor(255*7/8) the full channel meets the formula too (R193). -/
theorem toNat_dim_223 (c : Byte) : (dim 223 c false).toNat = c.toNat * 7 / 8 := by
  by_cases hc : c = 255
  · rw [hc]
    rfl
  · have hlt : c.toNat < 256 := c.isLt
    rw [dim_of_ne_full hc, BitVec.toNat_ofNat, Nat.mod_eq_of_lt (by omega)]

/-- Settles O31: one case per branch of DIM, and the formula where DIM_LEVEL is 223. -/
theorem dimScalesChannel : Obligations.DimScalesChannel := by
  intro c s
  refine ⟨?_, ?_, ?_, fun hc => ?_, fun hlevel => ⟨_, exec_dim false c s, hlevel ▸ toNat_dim_223 c⟩⟩
  · rw [exec_dim, dim_bright]
  · rw [exec_dim, dim_zero]
  · rw [exec_dim, dim_full]
  · rw [exec_dim, dim_of_ne_full hc]

/-! ### The colour LUT -/

/-- An expanded and dimmed channel is the table's. -/
theorem dim_channelMask_eq_tableChannel (level : Byte) (bright on : Bool) :
    dim level (channelMask on) bright = tableChannel level bright on := by
  cases on
  · exact dim_zero level bright
  · cases bright <;> rfl

/-- CLUT has the entries of the table of R194. -/
theorem clut_eq_tableColor (level : Byte) (idx : BitVec 3) (bright : Bool) :
    clut level idx bright = tableColor level bright idx.toNat := by
  simp only [clut, cexp, tableColor, dim_channelMask_eq_tableChannel, getLsbD_eq_div_mod, Nat.pow_zero, Nat.div_one]
  rfl

/-- Settles O32: CLUT dims each channel of CEXP, which makes the entry of the table. -/
theorem clutReturnsTableEntry : Obligations.ClutReturnsTableEntry := by
  refine ⟨fun idx bright s => ⟨_, exec_clut bright idx s, clut_eq_tableColor _ idx bright, fun u hcexp => ?_⟩, rfl, rfl⟩
  rw [exec_cexp] at hcexp
  cases hcexp
  exact ⟨rfl, rfl, rfl⟩

/-! ### The flash bit -/

/-- The fields of an attr byte that the image reads: all but flash (R196). -/
def attrColour (attr : Byte) : AttrFields := { attrSplit attr with flash := false }

theorem attrColour_xor_flash (attr : Byte) : attrColour (attr ^^^ 0x80) = attrColour attr := by
  rw [attrColour, attrSplit_xor_flash, attrColour]

/-- The triplet of a pixel bit in a cell with the attr fields `f` (R175). -/
def fieldsPixel (level : Byte) (f : AttrFields) (p : Bool) : Rgb :=
  psel p (clut level f.ink f.bright) (clut level f.paper f.bright)

/-- A pixel of the image takes from its attr byte the colour fields alone (R252). -/
theorem framePixel_eq_fieldsPixel (s : State) (x y : Nat) :
    framePixel s x y =
      fieldsPixel s.params.dimLevel (attrColour (readIn s (6171 + y >>> 3 * 32 + x >>> 3)))
        (bitx (readIn s (27 + (vrow (BitVec.ofNat 8 y)).toNat * 32 + x >>> 3)) (x &&& 7)) := rfl

/-- A byte of the image depends on the display bytes, on the colour fields of the attr bytes and on DIM_LEVEL. -/
theorem frameByte_congr_attrColour {s t : State} (hlevel : t.params.dimLevel = s.params.dimLevel)
    (hdisplay : ∀ a, 27 ≤ a → a < 6171 → readIn t a = readIn s a)
    (hattr : ∀ a, 6171 ≤ a → a < 6939 → attrColour (readIn t a) = attrColour (readIn s a)) {off : Nat}
    (hoff : off < 147456) : frameByte t off = frameByte s off := by
  have hscanline := vrow_lt (y := off / 3 / 256) (by omega)
  have hcellCol : (off / 3 % 256) >>> 3 < 32 := by rw [Nat.shiftRight_eq_div_pow]; omega
  have hcellRow : (off / 3 / 256) >>> 3 < 24 := by rw [Nat.shiftRight_eq_div_pow]; omega
  simp only [frameByte, framePixel_eq_fieldsPixel, hlevel]
  rw [hattr _ (by omega) (by omega), hdisplay _ (by omega) (by omega)]

/-- A write to an attr byte that keeps its colour fields leaves the image. -/
theorem frameByte_writeIn_of_attrColour {s : State} {a : Nat} {v : Byte} (ha : 6171 ≤ a)
    (hv : attrColour v = attrColour (readIn s a)) {off : Nat} (hoff : off < 147456) :
    frameByte (writeIn s a v) off = frameByte s off := by
  refine frameByte_congr_attrColour (s := s) (t := writeIn s a v) rfl (fun b _ hb => ?_) (fun b _ _ => ?_) hoff
  · rw [readIn_writeIn, if_neg (by omega)]
  · by_cases hba : b = a
    · rw [readIn_writeIn, if_pos hba, hv, hba]
    · rw [readIn_writeIn, if_neg hba]

/-- Settles O41: the write inverts the flash field alone, which no pixel reads. -/
theorem flashBitNeverReachesImage : Obligations.FlashBitNeverReachesImage := by
  intro s t off d hidle hcap hlo _ hd hwrite o ho
  rw [exec_hwIn_of_idle hcap hidle] at hwrite
  cases hwrite
  have hcolour : attrColour (dataByte d) = attrColour (readIn s off.toNat) := by
    rw [dataByte, hd, attrColour_xor_flash]
  exact frameByte_writeIn_of_attrColour hlo hcolour ho

end Sys2Proof.Machine
end

section
/-! PROOFS. The bitmap unpacker (R220 to R225): the row swap by its fields and by arithmetic, the display fetch, the pixel bit,
and the image pixel as arithmetic on its attr byte and its display byte. -/

namespace Sys2Proof.Machine

/-! ### The row swap -/

/-- VROW keeps the third and swaps the other two fields of y: each bit of its value is one bit of y (R220). -/
theorem vrow_fields (y : Byte) :
    (vrow y).extractLsb' 6 2 = y.extractLsb' 6 2 ∧ (vrow y).extractLsb' 3 3 = y.extractLsb' 0 3 ∧
      (vrow y).extractLsb' 0 3 = y.extractLsb' 3 3 := by
  refine ⟨?_, ?_, ?_⟩ <;> ext i hi
  all_goals interval_cases i <;> simp [vrow]

/-- A row number is its third, its character row and its pixel line. -/
theorem toNat_eq_rowFields (y : Byte) :
    y.toNat = 64 * (y.extractLsb' 6 2).toNat + 8 * (y.extractLsb' 3 3).toNat + (y.extractLsb' 0 3).toNat := by
  have hy : y.toNat < 256 := y.isLt
  simp only [toNat_extractLsb'_eq_div_mod]
  omega

/-- VROW has its arithmetic form (R221). -/
theorem toNat_vrow (y : Byte) : (vrow y).toNat = vrowNat y.toNat := by
  have hy : y.toNat < 256 := y.isLt
  obtain ⟨hthird, hcharacterRow, hline⟩ := vrow_fields y
  rw [toNat_eq_rowFields, hthird, hcharacterRow, hline]
  simp only [toNat_extractLsb'_eq_div_mod, vrowNat]
  omega

theorem vrowNat_div_64 (n : Nat) : vrowNat n / 64 = n / 64 := by simp only [vrowNat]; omega

theorem vrowNat_mod_8 (n : Nat) : vrowNat n % 8 = n % 64 / 8 := by simp only [vrowNat]; omega

theorem vrowNat_mod_64_div_8 (n : Nat) : vrowNat n % 64 / 8 = n % 8 := by
  have hmod : vrowNat n % 64 = 8 * (n % 8) + n % 64 / 8 := by simp only [vrowNat]; omega
  omega

/-- Swapping the two fields twice restores them (R221). -/
@[simp] theorem vrowNat_vrowNat (n : Nat) : vrowNat (vrowNat n) = n := by
  rw [vrowNat, vrowNat_div_64, vrowNat_mod_8, vrowNat_mod_64_div_8]
  omega

theorem vrowNat_lt {n : Nat} (hn : n < 192) : vrowNat n < 192 := by
  have := vrowNat_div_64 n
  omega

@[simp] theorem vrow_vrow (y : Byte) : vrow (vrow y) = y := by
  apply BitVec.eq_of_toNat_eq
  rw [toNat_vrow, toNat_vrow, vrowNat_vrowNat]

/-! ### The operations of the unpacker -/

theorem exec_vrow (y : Byte) (s : State) : exec (.vrow y) s = .next { s with result := .byte (vrow y) } := rfl

theorem exec_bmpFetch_of_lt {pr : Byte} (hpr : pr.toNat < 192) (cc : BitVec 5) (s : State) :
    exec (.bmpFetch pr cc) s = .next { s with result := .byte (readIn s (27 + pr.toNat * 32 + cc.toNat)) } :=
  if_pos hpr

theorem exec_bmpFetch_of_le {pr : Byte} (hpr : 192 ≤ pr.toNat) (cc : BitVec 5) (s : State) :
    exec (.bmpFetch pr cc) s = .refused (.illegal .stageOperand) :=
  if_neg (Nat.not_lt.2 hpr)

theorem exec_bitx (dbyte : Byte) (k : BitVec 3) (s : State) :
    exec (.bitx dbyte k) s = .next { s with result := .bit (bitx dbyte k.toNat) } := rfl

/-- BITX by arithmetic on the value of the display byte (R223). -/
theorem bitx_eq_true_iff (dbyte : Byte) (k : Nat) : bitx dbyte k = true ↔ dbyte.toNat / 2 ^ (7 - k) % 2 = 1 := by
  rw [bitx, getLsbD_eq_div_mod, beq_iff_eq]

/-- Settles O33: VROW returns `vrow y`, with the fields of y in their new places. -/
theorem vrowSwapsLineAndCharacterRow : Obligations.VrowSwapsLineAndCharacterRow :=
  fun s => ⟨fun y => ⟨vrow y, exec_vrow y s, vrow_fields y⟩, rfl, rfl, rfl, rfl, rfl⟩

/-- Settles O34, by the arithmetic form. -/
theorem vrowIsInvolutionWithArithmeticForm : Obligations.VrowIsInvolutionWithArithmeticForm := by
  refine fun y s => ⟨vrow y, exec_vrow y s, ?_, ?_⟩
  · rw [exec_vrow, vrow_vrow]
  · rw [toNat_vrow]
    exact ⟨fun hy => Nat.le_of_lt_succ (vrowNat_lt (Nat.lt_succ_of_le hy)), vrowNat_div_64 _, rfl⟩

/-- Settles O35: the offset of a scanline in range stays inside the bitmap region. -/
theorem bmpFetchReadsDisplayByte : Obligations.BmpFetchReadsDisplayByte := by
  refine fun pr cc s => ⟨fun hpr => ⟨exec_bmpFetch_of_lt hpr cc s, ?_⟩, fun hpr => exec_bmpFetch_of_le hpr cc s⟩
  have hcc : cc.toNat < 32 := cc.isLt
  omega

/-- Settles O36: the bit that is returned is `bitx dbyte k`, a quotient's parity. -/
theorem bitxReadsMostSignificantFirst : Obligations.BitxReadsMostSignificantFirst :=
  fun dbyte k s => ⟨_, exec_bitx dbyte k s, bitx_eq_true_iff dbyte k.toNat⟩

/-! ### The pixels of a display byte -/

/-- The triplet of a pixel bit in a cell with the attr byte `attr` is the table's entry for its ink or its paper. -/
theorem fieldsPixel_attrColour (level attr : Byte) (p : Bool) :
    fieldsPixel level (attrColour attr) p =
      tableColor level (attr.toNat / 64 % 2 == 1) (if p then attr.toNat % 8 else attr.toNat / 8 % 8) := by
  rw [← attrSplit_bright, ← toNat_attrSplit_ink, ← toNat_attrSplit_paper]
  cases p <;> exact clut_eq_tableColor _ _ _

/-- A pixel of the image is the arithmetic one (R252). -/
theorem framePixel_eq_imagePixel (s : State) (x : Nat) {y : Nat} (hy : y < 256) :
    framePixel s x y = imagePixel s x y := by
  have hlow : x &&& 7 = x % 8 := Nat.and_two_pow_sub_one_eq_mod x 3
  have hscanline : (vrow (BitVec.ofNat 8 y)).toNat = vrowNat y := by
    rw [toNat_vrow, BitVec.toNat_ofNat, Nat.mod_eq_of_lt hy]
  simp only [framePixel_eq_fieldsPixel, fieldsPixel_attrColour, bitx_eq_true_iff, hlow, hscanline, imagePixel,
    Nat.shiftRight_eq_div_pow, Nat.reducePow]

/-- The bytes of the image at a pixel's offset are its channels (R73). -/
theorem frameByte_eq_rgbChannel (s : State) {x y c : Nat} (hx : x < 256) (hy : y < 192) (hc : c < 3) :
    frameByte s ((y * 256 + x) * 3 + c) = rgbChannel (framePixel s x y) c := by
  have hoff : (y * 256 + x) * 3 + c = 3 * pixelNumber (Seq.ofPixel x y hx hy) + c := by simp [pixelNumber]; omega
  rw [hoff, frameByte_pixel s _ hc, pixelRgb_eq_framePixel, Seq.x_ofPixel, Seq.y_ofPixel]

/-- Settles O42: VROW undoes itself, so the arithmetic pixel at (x, y) reads bit 7 - k of this display byte. -/
theorem displayByteHoldsEightPixels : Obligations.DisplayByteHoldsEightPixels := by
  intro s o k ho ho' hk x y attr c hc
  have hx : x < 256 := by omega
  have hy : y < 192 := vrowNat_lt (by omega)
  have hbit : x % 8 = k := by omega
  have hoffset : 27 + vrowNat y * 32 + x / 8 = o := by rw [vrowNat_vrowNat]; omega
  rw [frameByte_eq_rgbChannel s hx hy hc, framePixel_eq_imagePixel s x (Nat.lt_trans hy (by decide)), imagePixel, hbit,
    hoffset]
  exact congrArg (rgbChannel · c) (apply_ite _ _ _ _)

end Sys2Proof.Machine
end

section
/-! PROOFS. The compositor (R250 to R253): the selection of a triplet, its write, and the image as a value. -/

namespace Sys2Proof.Machine

/-! ### The selection of ink or paper -/

theorem exec_psel (p : Bool) (ink paper : Rgb) (s : State) :
    exec (.psel p ink paper) s = .next { s with result := .rgb (psel p ink paper) } := rfl

@[simp] theorem psel_self (p : Bool) (c : Rgb) : psel p c c = c := ite_self c

/-- Index 0 is black at both values of bright (R194). -/
theorem tableColor_zero (level : Byte) (bright : Bool) : tableColor level bright 0 = ⟨0, 0, 0⟩ := rfl

/-- Settles O37: between equal triplets the choice is no choice, and index 0 is black in the table. -/
theorem pselSelectsInkOrPaper : Obligations.PselSelectsInkOrPaper := by
  refine fun ink paper s => ⟨exec_psel true ink paper s, exec_psel false ink paper s, fun p q => ?_, fun p bright => ?_⟩
  · rw [exec_psel, exec_psel, psel_self, psel_self]
  · rw [exec_psel, psel_self, tableColor_zero]

/-! ### The write of a triplet -/

theorem exec_pwrite_of_lt {y : Byte} (hy : y.toNat < 192) (x : Byte) (c : Rgb) (s : State) :
    exec (.pwrite y x c) s = .next (pwrite s x.toNat y.toNat c) :=
  if_pos hy

theorem exec_pwrite_of_le {y : Byte} (hy : 192 ≤ y.toNat) (x : Byte) (c : Rgb) (s : State) :
    exec (.pwrite y x c) s = .refused (.illegal .stageOperand) :=
  if_neg (Nat.not_lt.2 hy)

theorem readOut_pwrite_channel (s : State) (x y : Nat) (c : Rgb) {i : Nat} (hi : i < 3) :
    readOut (pwrite s x y c) ((y * 256 + x) * 3 + i) = rgbChannel c i := by
  have hpixel : ((y * 256 + x) * 3 + i) / 3 = y * 256 + x := by omega
  have hchannel : ((y * 256 + x) * 3 + i) % 3 = i := by omega
  rw [readOut_pwrite, if_pos hpixel, hchannel]

theorem readOut_pwrite_outside (s : State) {x y a : Nat} (c : Rgb)
    (ha : a < (y * 256 + x) * 3 ∨ (y * 256 + x) * 3 + 2 < a) : readOut (pwrite s x y c) a = readOut s a := by
  rw [readOut_pwrite, if_neg (by omega)]

/-- Settles O38: the pixel's offset is its number times 3, below 147456 for a row in range. -/
theorem pwriteStoresTriplet : Obligations.PwriteStoresTriplet := by
  refine fun y x c s => ⟨fun hy => ⟨_, exec_pwrite_of_lt hy x c s, ?_⟩, fun hy => exec_pwrite_of_le hy x c s⟩
  have hx : x.toNat < 256 := x.isLt
  exact ⟨readOut_pwrite_channel s _ _ c (by decide), readOut_pwrite_channel s _ _ c (by decide),
    readOut_pwrite_channel s _ _ c (by decide), fun _ => readOut_pwrite_outside s c, by omega,
    readIn_pwrite s _ _ c, pwrite_eq s _ _ c⟩

/-! ### The image as a value -/

theorem exec_frame (s : State) : exec .frame s = .next { s with result := .frame (frameBytes s) } := rfl

theorem length_frameBytes (s : State) : (frameBytes s).length = 147456 := by
  rw [frameBytes, List.length_map, List.length_range, Config.outLen]

theorem getElem?_frameBytes (s : State) {off : Nat} (hoff : off < 147456) : (frameBytes s)[off]? = some (frameByte s off) := by
  rw [frameBytes, List.getElem?_map, List.getElem?_range (n := Config.outLen) hoff, Option.map_some]

/-- The image holds at a pixel's offset the channels of the arithmetic pixel, in the order of R73. -/
theorem getElem?_frameBytes_pixel (s : State) {x y i : Nat} (hx : x < 256) (hy : y < 192) (hi : i < 3) :
    (frameBytes s)[(y * 256 + x) * 3 + i]? = some (rgbChannel (imagePixel s x y) i) := by
  rw [getElem?_frameBytes s (by omega), frameByte_eq_rgbChannel s hx hy hi,
    framePixel_eq_imagePixel s x (Nat.lt_trans hy (by decide))]

/-- Settles O39: the value of FRAME is `frameBytes s`. -/
theorem frameReturnsClosedFormImage : Obligations.FrameReturnsClosedFormImage :=
  fun s => ⟨frameBytes s, exec_frame s, length_frameBytes s, fun _ hx _ hy =>
    ⟨getElem?_frameBytes_pixel s hx hy (by decide), getElem?_frameBytes_pixel s hx hy (by decide),
      getElem?_frameBytes_pixel s hx hy (by decide)⟩⟩

/-- Settles O40: byte by byte, the image depends on the bytes [27, 6939) of IN and DIM_LEVEL alone. -/
theorem imageDependsOnUsedBytesAlone : Obligations.ImageDependsOnUsedBytesAlone := by
  intro s t s' t' hlevel hin hs ht
  rw [exec_frame] at hs ht
  cases hs
  cases ht
  have hbytes : frameBytes s = frameBytes t :=
    List.map_congr_left fun off hoff =>
      frameByte_congr_used hlevel (fun a hlo hhi => hin a hlo (Nat.le_of_lt_succ hhi)) (List.mem_range.1 hoff)
  exact congrArg Result.frame hbytes

end Sys2Proof.Machine
end

section
/-! PROOFS. Whole decodes (R254): the run of the machine from the size check to DONE, and from START to a SizeMismatch. -/

namespace Sys2Proof.Machine

/-! ### Runs of the machine -/

theorem core_run_succ_of_step {s t : State} (h : step s = .next t) (k : Nat) :
    Host.Core.run Sys2Proof.core (k + 1) s = Host.Core.run Sys2Proof.core k t := by
  rw [core_run_succ, h]

/-- A run that answers a state goes on from it by one step. -/
theorem core_run_succ_of_run {n : Nat} {s t : State} (h : Host.Core.run Sys2Proof.core n s = .next t) :
    Host.Core.run Sys2Proof.core (n + 1) s = step t := by
  induction n generalizing s with
  | zero =>
    cases h
    rw [core_run_succ]
    cases step t <;> rfl
  | succ n ih =>
    rw [core_run_succ] at h ⊢
    cases hstep : step s with
    | next u => rw [hstep] at h; exact ih h
    | fault r => cases r
    | refused r => rw [hstep] at h; cases h

/-! ### A decode of the snapshot's length -/

/-- The state of `s` in a scan at position `q`, with OUT's written bytes `m`. -/
def scanningAt (s : State) (m : Memory) (q : Seq) : State := { s with phase := .scan, outMem := m, seq := q }

section
variable {s : State} (hwf : s.params.wellFormed = true) (hs : s.schedule = [])
include hwf hs

/-- With nothing scheduled, the size check of a length of 49179 begins the scan (R171). -/
theorem step_check_alone (hphase : s.phase = .check) (hlen : s.lenLatch = Config.snapshotLenWord) :
    step s = .next (scanningAt s s.outMem s.seq) :=
  (step_nil hwf hs (decode_engine_eq_ok.2 (.inl ⟨hphase, rfl⟩))).trans (exec_eSizechk_of_eq hphase hlen)

/-- With nothing scheduled, a scan takes its pixel steps. -/
theorem step_scanningAt (m : Memory) (q : Seq) : step (scanningAt s m q) = exec .ePixel (scanningAt s m q) :=
  step_nil (s := scanningAt s m q) hwf hs rfl

/-- The engine alone, from the size check of a length of 49179: after `n` pixel steps the scan stands at position `n`, with the
pixels before it produced (R172, R176). -/
theorem run_scan (hphase : s.phase = .check) (hlen : s.lenLatch = Config.snapshotLenWord) (hfirst : s.seq = Seq.first)
    {n : Nat} (hn : n < 49152) :
    ∃ m q, Host.Core.run Sys2Proof.core (n + 1) s = .next (scanningAt s m q) ∧ q.index = n ∧
      scanProgress (scanningAt s m q) := by
  induction n with
  | zero =>
    have hstep := step_check_alone hwf hs hphase hlen
    have hprogress : scanProgress s := ⟨fun _ => hfirst, fun hscan => by rw [hphase] at hscan; cases hscan⟩
    exact ⟨_, _, core_run_succ_of_step hstep 0, by rw [hfirst, Seq.index_first],
      scanProgressKeptByEveryStep _ _ hprogress hstep⟩
  | succ n ih =>
    obtain ⟨m, q, hrun, hindex, hprogress⟩ := ih (Nat.lt_of_succ_lt hn)
    have hne : q ≠ Seq.last := mt (Seq.eq_last_iff q).1 (by omega)
    have hstep : step (scanningAt s m q) = .next (scanningAt s (writePixel (scanningAt s m q)).outMem (seqAdv q)) :=
      (step_scanningAt hwf hs m q).trans (exec_ePixel_of_ne_last rfl hne)
    exact ⟨_, _, (core_run_succ_of_run hrun).trans hstep, by rw [index_seqAdv hne, hindex],
      scanProgressKeptByEveryStep _ _ hprogress hstep⟩

end

/-- Settles O59: one size check and 49151 pixel steps bring the scan to its last position, whose step ends it and completes the
image. -/
theorem fullDecodeProducesFrame : Obligations.FullDecodeProducesFrame := by
  intro s hwf hs hphase hlen hfirst
  obtain ⟨m, q, hrun, hindex, hprogress⟩ :=
    run_scan hwf hs hphase (eq_snapshotLenWord_iff.2 hlen) hfirst (n := 49151) (by decide)
  have hlast : q = Seq.last := (Seq.eq_last_iff q).2 hindex
  have hstep : step (scanningAt s m q) = .next (finishScan (writePixel (scanningAt s m q))) :=
    (step_scanningAt hwf hs m q).trans (exec_ePixel_of_last rfl hlast)
  have hframe : outIsFrame (finishScan (writePixel (scanningAt s m q))) :=
    outIsFrame_finishScan_writePixel hlast (hprogress.2 rfl)
  exact ⟨⟨_, hrun, rfl⟩, _, (core_run_succ_of_run hrun).trans hstep, rfl, rfl, rfl, readIn_congr rfl rfl,
    fun off hoff => (hframe off hoff).trans (frameByte_congr rfl rfl rfl off), rfl⟩

/-! ### A decode of another length -/

/-- A write of CTRL with DATA[0] = 1 is START (R140). -/
theorem decode_start {d : Word} (hbit : d.getLsbD 0 = true) (p : Params) :
    decode p (.host 4 (haw true 0 0x00 d)) = .ok (.hwStart (dataHi d)) :=
  ((decode_regCode p true 0x00 d).trans (decodeReg_ctrlWrite d)).trans (by rw [hbit, if_pos rfl])

/-- START and one engine step, with another length than the snapshot's in IN_LEN: the decode ends in its SizeMismatch. -/
theorem run_start_mismatch {s : State} {d : Word} {es : List Event} (hwf : s.params.wellFormed = true)
    (hidle : busy s = false) (hlen : s.inLen.toNat ≠ 49179) (hbit : d.getLsbD 0 = true)
    (hs : s.schedule = .host 4 (haw true 0 0x00 d) :: .engine :: es) :
    Host.Core.run Sys2Proof.core 2 s = .next (raiseSizeMismatch (startDecode { s with schedule := es }) s.inLen) := by
  have hstart : step s = .next (startDecode { s with schedule := .engine :: es }) :=
    (step_cons hwf hs (decode_start hbit s.params)).trans
      (exec_hwStart_of_idle (s := { s with schedule := .engine :: es }) hidle _)
  have hcheck : step (startDecode { s with schedule := .engine :: es }) =
      .next (raiseSizeMismatch (startDecode { s with schedule := es }) s.inLen) :=
    (step_cons (s := startDecode { s with schedule := .engine :: es }) hwf rfl rfl).trans
      (exec_eSizechk_of_ne (s := startDecode { s with schedule := es }) rfl (mt eq_snapshotLenWord_iff.1 hlen))
  rw [core_run_succ_of_step hstart 1]
  exact core_run_succ_of_step hcheck 0

/-- Settles O60: START clears the record that the size check writes again, and both leave IN_LEN, IN and OUT. -/
theorem mismatchedDecodeEndsInOneEngineStep : Obligations.MismatchedDecodeEndsInOneEngineStep := by
  intro s d es hwf hidle hlen hbit hs
  exact ⟨_, run_start_mismatch hwf hidle hlen hbit hs, rfl, statusWord_raiseSizeMismatch rfl _, rfl, rfl, rfl,
    readOut_congr rfl rfl, readIn_congr rfl rfl, _, run_start_mismatch hwf rfl hlen hbit rfl, rfl⟩

end Sys2Proof.Machine
end

section
/-! PROOFS. The step that sets ERR is the size check of a length other than the snapshot's (R280, R281). -/

namespace Sys2Proof.Machine

/-- The end of a scan step leaves ERR, at the last position too (R174). -/
@[simp] theorem advanceScan_err (s : State) : (advanceScan s).err = s.err := by unfold advanceScan; split <;> rfl

/-- ERR is set by a failed size check (R282) and by nothing else: START and reset clear it, the other transitions keep it. -/
theorem step_sets_err {s t : State} (hstep : step s = .next t) (hbefore : s.err = false) (hafter : t.err = true) :
    engineNext s = true ∧ s.phase = .check ∧ s.lenLatch ≠ Config.snapshotLenWord ∧
      t = raiseSizeMismatch (afterFetch s) s.lenLatch := by
  have hchange : t.err ≠ s.err := by rw [hbefore, hafter]; exact nofun
  cases step_transition hstep with
  | sizeFailed hnext hphase hlen => exact ⟨hnext, hphase, hlen, rfl⟩
  | started | wasReset => cases hafter
  | pixelDone => exact absurd (advanceScan_err _) hchange
  | returned | inLenWritten | inWritten | sizePassed => exact absurd rfl hchange

/-- Settles O22: the only step that sets ERR enters SizeMismatch, which records LEN_LATCH and writes neither memory. -/
theorem errorRaisedOnlyBySizeCheck : Obligations.ErrorRaisedOnlyBySizeCheck := by
  intro s t hstep hbefore hafter
  obtain ⟨hnext, hphase, hlen, rfl⟩ := step_sets_err hstep hbefore hafter
  exact ⟨hnext, hphase, mt eq_snapshotLenWord_iff.2 hlen, raiseSizeMismatch_errActual _ _, raiseSizeMismatch_cause _ _,
    readIn_congr rfl rfl, readOut_congr rfl rfl⟩

end Sys2Proof.Machine
end

section
/-! PROOFS. What a reset leaves of the block (R310), and that no engine step follows it (R311, R312). -/

namespace Sys2Proof.Machine

/-- The reset input completes in every state (R310). -/
theorem exec_reset (s : State) : exec .reset s = .next (resetBlock s) := rfl

/-- After a reset STATUS shows neither BUSY nor a result (R48). -/
@[simp] theorem statusWord_resetBlock (s : State) : statusWord (resetBlock s) = 0x00000000 := by
  simp [statusWord, causeCode, busy]

/-- No byte of IN is written since the reset, so each reads as its fresh free draw. -/
@[simp] theorem readIn_resetBlock (s : State) (off : Nat) :
    readIn (resetBlock s) off = Config.freeInByte (s.resets + 1) off := by
  simp [readIn, unlistedIn]

/-- No byte of OUT is written since the reset, so each reads as its fresh free draw. -/
@[simp] theorem readOut_resetBlock (s : State) (off : Nat) :
    readOut (resetBlock s) off = Config.freeOutByte (s.resets + 1) off := by
  simp [readOut, unlistedOut]

/-- Settles O2: the state after the reset input is `resetBlock s`, whose fields and reads the lemmas about it give. -/
theorem resetInputClearsTheBlock : Obligations.ResetInputClearsTheBlock := by
  intro s
  exact ⟨resetBlock s, exec_reset s, resetBlock_done s, resetBlock_err s, resetBlock_cause s, statusWord_resetBlock s,
    resetBlock_errActual s, resetBlock_inLen s, resetBlock_lenLatch s, resetBlock_seq s, resetBlock_phase s,
    readIn_resetBlock s, readOut_resetBlock s, resetBlock_params s, resetBlock_schedule s, resetBlock_draws s,
    resetBlock_resets s, resetBlock_result s⟩

/-- A reset that is next in the schedule is the step taken, whatever the block is doing (R310). -/
theorem step_reset {s : State} {es : List Event} (hwf : s.params.wellFormed = true) (hs : s.schedule = .reset :: es) :
    step s = .next (resetBlock { s with schedule := es }) :=
  (step_cons hwf hs rfl).trans (exec_reset _)

/-- Settles O3: the reset leaves PHASE at IDLE, where the engine has no step (R312). -/
theorem resetAbortsDecode : Obligations.ResetAbortsDecode := by
  intro s es hwf hs
  obtain ⟨hunscheduled, hscheduled, -⟩ := idleEngineHasNoStep
  exact ⟨_, step_reset hwf hs, resetBlock_phase _, resetBlock_done _, resetBlock_err _, resetBlock_schedule _,
    hunscheduled _ hwf rfl rfl, fun fs => hscheduled _ fs hwf rfl rfl⟩

end Sys2Proof.Machine
end
